-- ==== Sys2Proof/Word.lean ====
section
/-! DEFINITION. The bit vectors of the machine (00_scope.md R6, R10, R11; 30_encoding.md R61, R62, R66). -/

namespace Sys2Proof

/-- A 64-bit unsigned value: counter, key, every intermediate value, the wide output (R6, R11). Bit 63 is the
most significant, weight 2^63 (R10). -/
abbrev Word := BitVec 64

/-- A 32-bit unsigned value: the narrow output (R6, R90). -/
abbrev HalfWord := BitVec 32

/-- The 3-bit command selector `cmd_op` (R61). -/
abbrev OpField := BitVec 3

/-- The command word `w` of R66, 131 bits: `op`, then `a`, then `b`, most significant first. -/
abbrev CommandWord := BitVec 131

end Sys2Proof
end

