-- ==== Sys2Proof/Syntax.lean ====
section
/-! DEFINITION. The eight commands (30_encoding.md R67, R70) and the lines of a listing (R74, R75). -/

namespace Sys2Proof

/-- The command set `SQCMD`, one constructor per row of the opcode table (R70). A constructor carries the operands the
command uses, `a` a counter and `b` a key (R62, R67); an ignored field has no effect (R68) and is dropped by the decoder
(log entry 13). -/
inductive Instr where
  /-- `NOP` (R120). -/
  | nop
  /-- `LDCTR a` (R121). -/
  | ldctr (a : Word)
  /-- `LDKEY b` (R122). -/
  | ldkey (b : Word)
  /-- `INIT a, b` (R123). -/
  | init (a b : Word)
  /-- `NEXT32` (R140). -/
  | next32
  /-- `NEXT64` (R141). -/
  | next64
  /-- `RAND32 a, b` (R130). -/
  | rand32 (a b : Word)
  /-- `RAND64 a, b` (R131). -/
  | rand64 (a b : Word)
  deriving DecidableEq, Repr

/-- A line of a listing (R74): a command under its own mnemonic, one of the document's names or a pseudo-command (R75),
or a sample of a status port, which is not a command. -/
inductive Line where
  /-- A command under the spec's mnemonic. -/
  | command (i : Instr)
  /-- `next_u32 c, k`. -/
  | nextU32 (c k : Word)
  /-- `next_u64 c, k`. -/
  | nextU64 (c k : Word)
  /-- `next32`. -/
  | next32
  /-- `next64`. -/
  | next64
  /-- `NEW c`. -/
  | newCtr (c : Word)
  /-- `NEWK c, k`. -/
  | newCtrKey (c k : Word)
  /-- `? ctr_q`. -/
  | sampleCtr
  /-- `? key_q`. -/
  | sampleKey
  deriving DecidableEq, Repr

end Sys2Proof
end

