-- ==== Sys2Proof/WellFormed.lean ====
section
/-! DEFINITION. The checks on terms: commands (every one is legal), listing lines that encode, the Weyl increment's parity. -/

namespace Sys2Proof

/-- A command is legal whatever its operands: "Every value of `a` and of `b` is valid" (R69), no encoding is reserved
(R72). The types already hold the operands to 64 bits, so no command is ill-formed. -/
def Instr.wellFormed : Instr → Bool
  | .nop => true
  | .ldctr _ => true
  | .ldkey _ => true
  | .init _ _ => true
  | .next32 => true
  | .next64 => true
  | .rand32 _ _ => true
  | .rand64 _ _ => true

/-- A listing line has a command word unless it is a sample: "a sample is not a command and has no encoding" (R74). -/
def Line.encodable : Line → Bool
  | .command i => i.wellFormed
  | .nextU32 _ _ => true
  | .nextU64 _ _ => true
  | .next32 => true
  | .next64 => true
  | .newCtr _ => true
  | .newCtrKey _ _ => true
  | .sampleCtr => false
  | .sampleKey => false

/-- The one constraint on `WEYL_INC`: it is odd, `WEYL_INC[0] = 1` (R7). -/
def weylIncOk (inc : Word) : Bool := inc.getLsbD 0

end Sys2Proof
end

