-- ==== Sys2Proof/Decode.lean ====
section
/-! DEFINITION. Decoding a command (30_encoding.md R61, R66, R68, R70, R72), total on all 2^131 words, and the encoder. -/

namespace Sys2Proof

/-- The command a triple (`op`, `a`, `b`) on the command port stands for (R61, R70), read from the three bits
`op[2]`, `op[1]`, `op[0]`. Every triple is a command (R72). -/
def decode (op : OpField) (a b : Word) : Instr :=
  match op.getLsbD 2, op.getLsbD 1, op.getLsbD 0 with
  | false, false, false => .nop
  | false, false, true => .ldctr a
  | false, true, false => .ldkey b
  | false, true, true => .init a b
  | true, false, false => .next32
  | true, false, true => .next64
  | true, true, false => .rand32 a b
  | true, true, true => .rand64 a b

/-- Field `op` of a command word, bits 130:128 (R66). -/
def opField (w : CommandWord) : OpField := w.extractLsb' 128 3

/-- Field `a` of a command word, bits 127:64 (R66). -/
def aField (w : CommandWord) : Word := w.extractLsb' 64 64

/-- Field `b` of a command word, bits 63:0 (R66). -/
def bField (w : CommandWord) : Word := w.extractLsb' 0 64

/-- The command word with these three fields, `op`, `a`, `b` from the most significant bit down (R66). -/
def packWord (op : OpField) (a b : Word) : CommandWord := op ++ a ++ b

/-- The command a command word stands for (R66, R70). -/
def decodeWord (w : CommandWord) : Instr := decode (opField w) (aField w) (bField w)

/-- The `op` of each command (R70). -/
def opcode : Instr → OpField
  | .nop => 0b000
  | .ldctr _ => 0b001
  | .ldkey _ => 0b010
  | .init _ _ => 0b011
  | .next32 => 0b100
  | .next64 => 0b101
  | .rand32 _ _ => 0b110
  | .rand64 _ _ => 0b111

/-- What a command puts in field `a`; `none` where it ignores the field (R67). -/
def operandA : Instr → Option Word
  | .nop => none
  | .ldctr a => some a
  | .ldkey _ => none
  | .init a _ => some a
  | .next32 => none
  | .next64 => none
  | .rand32 a _ => some a
  | .rand64 a _ => some a

/-- What a command puts in field `b`; `none` where it ignores the field (R67). -/
def operandB : Instr → Option Word
  | .nop => none
  | .ldctr _ => none
  | .ldkey b => some b
  | .init _ b => some b
  | .next32 => none
  | .next64 => none
  | .rand32 _ b => some b
  | .rand64 _ b => some b

/-- Whether the command with this `op` uses field `a` (R67). -/
def opUsesA (op : OpField) : Bool := (operandA (decode op 0 0)).isSome

/-- Whether the command with this `op` uses field `b` (R67). -/
def opUsesB (op : OpField) : Bool := (operandB (decode op 0 0)).isSome

/-- The command word of a command, with `fa` and `fb` in the fields it ignores: any value would do (R68). -/
def encodeWith (fa fb : Word) (i : Instr) : CommandWord :=
  packWord (opcode i) ((operandA i).getD fa) ((operandB i).getD fb)

/-- The command word of a listing line's command: an ignored operand is encoded as zero (R74, R76). -/
def encode (i : Instr) : CommandWord := encodeWith 0 0 i

/-- The command word whose bits the opcode table's `fixed` column numbers from the selector up: `op` is bits 2:0 and,
counting on, `a` is bits 66:3 and `b` bits 130:67. Bits at `nbits` and above are 0. Log entry 6. -/
def tableWord (nbits w : Nat) : CommandWord :=
  let v := w % 2 ^ nbits
  packWord (BitVec.ofNat 3 v) (BitVec.ofNat 64 (v / 2 ^ 3)) (BitVec.ofNat 64 (v / 2 ^ 67))

/-- What the decoder reads from a command given in the opcode table's numbering (log entry 6). It never refuses (R72). -/
def decodeTableWord (nbits w : Nat) : Option Instr := some (decodeWord (tableWord nbits w))

/-- The command a listing line stands for: an alias or pseudo-command expands one for one (R75); a sample is no
command (R74). -/
def Line.expand : Line → Option Instr
  | .command i => some i
  | .nextU32 c k => some (.rand32 c k)
  | .nextU64 c k => some (.rand64 c k)
  | .next32 => some .next32
  | .next64 => some .next64
  | .newCtr c => some (.ldctr c)
  | .newCtrKey c k => some (.init c k)
  | .sampleCtr => none
  | .sampleKey => none

/-- The command word a listing line encodes to (R76). -/
def Line.encode (l : Line) : Option CommandWord := l.expand.map Sys2Proof.encode

end Sys2Proof
end

