-- ==== Sys2Proof/Machine/Datapath.lean ====
section
/-! DEFINITION. The datapath: arithmetic primitives, the rounds, the output selector, `SQ32` and `SQ64`
(40_datapath.md R90 to R107). Every function is total and pure (R90, R108, R114). -/

namespace Sys2Proof.Machine

/-- The product modulo 2^64 (R91). -/
def mul64 (a b : Word) : Word := a * b

/-- The square modulo 2^64 (R91). -/
def sq64 (x : Word) : Word := mul64 x x

/-- The sum modulo 2^64, the carry dropped (R92). -/
def add64 (p q : Word) : Word := p + q

/-- Bits 31:0 (R10, R12). -/
def lo32 (v : Word) : HalfWord := v.extractLsb' 0 32

/-- Bits 63:32, the logical right shift by 32 (R96, R98, C1). -/
def hi32 (v : Word) : HalfWord := v.extractLsb' 32 32

/-- The rotation by 32: the halves change places (R94). -/
def rot32 (v : Word) : Word := lo32 v ++ hi32 v

/-- Bitwise exclusive or (R97). -/
def xor64 (p q : Word) : Word := p ^^^ q

/-- A 32-bit value widened to 64 bits with zeros (R12). -/
def zext64 (h : HalfWord) : Word := h.setWidth 64

/-- The round sum (R103). -/
def rsum (x a : Word) : Word := add64 (sq64 x) a

/-- A full round: the round sum, rotated (R103). -/
def round (x a : Word) : Word := rot32 (rsum x a)

/-- Every named value of the pipeline (R102 to R104). These are transient values (R30), not state. -/
structure Trace where
  y : Word
  z : Word
  x0 : Word
  s1 : Word
  x1 : Word
  s2 : Word
  x2 : Word
  s3 : Word
  x3 : Word
  s4 : Word
  x4 : Word
  s5 : Word
  deriving DecidableEq, Repr

/-- The pipeline from counter `c` and key `k`: the key schedule (R102), rounds 1 to 3 with addends `y`, `z`, `y` (R103),
rounds 4 and 5 with `z`, `y` (R104). -/
def trace (c k : Word) : Trace :=
  let y := mul64 c k
  let z := add64 y k
  let x0 := y
  let s1 := rsum x0 y
  let x1 := rot32 s1
  let s2 := rsum x1 z
  let x2 := rot32 s2
  let s3 := rsum x2 y
  let x3 := rot32 s3
  let s4 := rsum x3 z
  let x4 := rot32 s4
  let s5 := rsum x4 y
  { y, z, x0, s1, x1, s2, x2, s3, x3, s4, x4, s5 }

/-- The narrow output: the high half of the round-4 sum, with no rotation (R104). -/
def out32 (t : Trace) : HalfWord := hi32 t.s4

/-- The wide output: the round-4 sum before rotation, exclusive-ored with the widened high half of the round-5 sum
(R104, R98). -/
def out64 (t : Trace) : Word := xor64 t.s4 (zext64 (hi32 t.s5))

/-- The 32/64-bit output selector (R105): the response data for control input `w64`. -/
def outputSelector (w64 : Bool) (t : Trace) : Word :=
  if w64 then out64 t else zext64 (out32 t)

/-- `SQ32`, the document's `next_u32(counter, key)` (R106). -/
def squares32 (c k : Word) : HalfWord := out32 (trace c k)

/-- `SQ64`, the document's `next_u64(counter, key)` (R107). -/
def squares64 (c k : Word) : Word := out64 (trace c k)

end Sys2Proof.Machine
end

