-- ==== Sys2Proof/Config.lean ====
section
/-! DEFINITION. The values the spec leaves open, as constants with no body: nothing can be proved of them but what holds
for every value. Machine/Params.lean gives them the spec's names. -/

namespace Sys2Proof.Config

/-- Bits 63 to 1 of the Weyl increment, open (R7, D7, U7). Bit 0 is 1 because the increment is odd, so a value of these
63 bits is exactly an odd 64-bit value. Log entry 3 (DESIGN CHOICE of form; the value is free). -/
opaque weylIncUpper : BitVec 63

/-- The default key, open and unconstrained (R8, D8, U7), one for all blocks (log entry 21). Log entry 2. -/
opaque defaultKey : Word

/-- What the counter register of the `b`-th block of a system holds after that block's `n`-th reset, `n` counted from 0 at
power-up: unspecified (R32), one free draw for each block at each of its resets (the second treatment of R175 and U1; R162).
Nothing relates the values of two blocks, or of two resets; two runs share the value of one block at one reset (DESIGN CHOICE,
log entry 22). Log entries 1 and 20 (DESIGN CHOICE between the spec's two treatments; the value is free). -/
opaque powerUpCtr : Nat → Nat → Word

end Sys2Proof.Config
end

