-- ==== Sys2Proof/Machine/Params.lean ====
section
/-! DEFINITION. The parameters under the spec's names (00_scope.md R7, R8; 10_state.md R32). -/

namespace Sys2Proof.Machine

/-- `WEYL_INC`, the fixed odd amount a draw adds to the counter (R7). Log entry 3. -/
def weylInc : Word := Config.weylIncUpper ++ 1#1

/-- `DEFAULT_KEY`, the key after reset (R8, R33). Log entry 2. -/
def defaultKey : Word := Config.defaultKey

/-- `CTR` of block `b` after its `n`-th reset, a free value of its own for each block and each reset (R32, R162, R175). Log
entries 1 and 20. -/
def powerUpCtr (b n : Nat) : Word := Config.powerUpCtr b n

end Sys2Proof.Machine
end

