-- ==== Sys2Proof/Machine/State.lean ====
section
/-! DEFINITION. The state: the two registers of 10_state.md R20 and R35, the ghost loaded mark of R171, the response port's
record (R19, R64) and the host's drive of the command port and `rst` (R60). -/

namespace Sys2Proof.Machine

/-- One response on the response port (R64): `rsp_w64` and `rsp_data`. -/
structure Response where
  /-- `rsp_w64`: true for a 64-bit response. -/
  w64 : Bool
  /-- `rsp_data[63:0]`. -/
  data : Word
  deriving DecidableEq, Repr

/-- What the host drives at one step (R60): `rst` and the command port. -/
structure HostPorts where
  /-- `rst`. -/
  rst : Bool
  /-- `cmd_valid`. -/
  cmdValid : Bool
  /-- `cmd_op[2:0]`. -/
  cmdOp : OpField
  /-- `cmd_a[63:0]`. -/
  cmdA : Word
  /-- `cmd_b[63:0]`. -/
  cmdB : Word
  deriving DecidableEq, Repr

/-- The state of one block at an idle point, with its inputs and its outputs. -/
structure State where
  /-- `CTR` (R21). -/
  ctr : Word
  /-- `KEY` (R22). -/
  key : Word
  /-- The ghost loaded mark (R171): no command reads it. Log entry 9. -/
  loaded : Bool
  /-- The responses emitted since reset, oldest first (R19, R49, R64). Log entry 7. -/
  responses : List Response
  /-- What the host will drive, the next step's sample first (R60, R61). Log entry 4. -/
  host : List HostPorts
  /-- How many resets there were since power-up: the model's own count, which picks a fresh free value of `CTR` at each
  (log entry 8). -/
  resets : Nat
  /-- Which block of a system this is: the model's own mark, no identifier of the hardware (R162). No command reads it; it
  only picks the block's own free values of `CTR`, so that nothing relates the counters of two blocks after reset (log
  entry 20). -/
  block : Nat
  deriving DecidableEq, Repr

/-- Why the machine would stop with a fault: never. "No command raises an exception, for any operand value and in any
state" (R150), so no constructor exists and nobody raises one (safe or unsafe does not arise). Log entry 12. -/
inductive Fault where
  deriving DecidableEq, Repr

/-- Why a step would be refused. -/
inductive Refusal where
  /-- Raised only by an arm of `exec` for an instruction that has no meaning yet; no arm does. Safe: the model stops
  where the hardware goes on. -/
  | notModelled (mnemonic : String)
  deriving DecidableEq, Repr

/-- Block `b` right after power-up (R32, R33, R34, R170, R171): its own free counter, not loaded, the default key, no
response, and a host that drives nothing. Log entries 1, 2, 5, 20. -/
def State.powerUp (b : Nat) : State where
  ctr := powerUpCtr b 0
  key := defaultKey
  loaded := false
  responses := []
  host := []
  resets := 0
  block := b

/-- The machine right after reset. A machine of one block is block 0 (log entry 20). -/
def State.reset : State := State.powerUp 0

end Sys2Proof.Machine
end

