-- ==== Sys2Proof/Machine/Ops.lean ====
section
/-! DEFINITION. The named operations on the state: loading the registers, the Weyl advance, the responses, the reset event, the
ports (R63 to R65, R110, R170). The block has no memory (R40) and takes no exception (R150), so neither has an operation. -/

namespace Sys2Proof.Machine

/-- `CTR <- a` by a construct command, after which the counter counts as loaded (R121, R171). -/
def State.loadCtr (a : Word) (s : State) : State := { s with ctr := a, loaded := true }

/-- `KEY <- b` (R122). -/
def State.loadKey (b : Word) (s : State) : State := { s with key := b }

/-- The Weyl counter adder (R110). -/
def weyl (v : Word) : Word := add64 v weylInc

/-- `CTR <- weyl(CTR)`, the advance of a draw; the loaded mark is unchanged (R110, R171). -/
def State.advance (s : State) : State := { s with ctr := weyl s.ctr }

/-- A response leaves on the response port, after those before it (R49). -/
def State.emit (r : Response) (s : State) : State := { s with responses := s.responses ++ [r] }

/-- `respond32(v)`: `rsp_w64 = 0`, the value in bits 31:0, zeros above (R64). -/
def State.respond32 (v : HalfWord) (s : State) : State := s.emit { w64 := false, data := zext64 v }

/-- `respond64(v)`: `rsp_w64 = 1`, the value in all 64 bits (R64). -/
def State.respond64 (v : Word) (s : State) : State := s.emit { w64 := true, data := v }

/-- The reset event, from any state (R170): counter free again and not loaded, default key, no response. The free value is
this block's own (R162): it says nothing of another block's, nor of this block's at another reset. It depends on the block and
on the count of its resets only, so two runs that differ in what came before the same reset find the same value after it
(DESIGN CHOICE, log entry 22). What the host drives afterwards is the host's. Log entries 1, 7, 8, 20. -/
def State.applyReset (s : State) : State where
  ctr := powerUpCtr s.block (s.resets + 1)
  key := defaultKey
  loaded := false
  responses := []
  host := s.host
  resets := s.resets + 1
  block := s.block

/-- The response port over the step from `s` to `t` (R64): the response where `rsp_valid = 1`, `none` where `rsp_valid = 0`
and `rsp_w64` and `rsp_data` mean nothing (U3). A reset signals none (R173). -/
def responsePort (s t : State) : Option Response :=
  if t.resets = s.resets then t.responses[s.responses.length]? else none

/-- The status port `ctr_q` at an idle point (R65). -/
def State.ctrQ (s : State) : Word := s.ctr

/-- The status port `key_q` at an idle point (R65). -/
def State.keyQ (s : State) : Word := s.key

/-- `cmd_ready`: 1 when the block is idle, which it is at every state of this model (R63, R18; log entry 10). -/
def State.cmdReady (_ : State) : Bool := true

/-- A command is accepted when `cmd_valid` and `cmd_ready` are both 1 (R63). -/
def accepts (p : HostPorts) (s : State) : Bool := p.cmdValid && s.cmdReady

/-- The sample the next step sees, and the state once it is taken; `none` when the host drives nothing (log entry 4). -/
def State.fetch (s : State) : Option (HostPorts × State) :=
  match s.host with
  | [] => none
  | p :: rest => some (p, { s with host := rest })

end Sys2Proof.Machine
end

