-- ==== Sys2Proof/Machine/Construct.lean ====
section
/-! DEFINITION. The construct commands (41_construct.md R120 to R124). None uses the datapath; none responds. -/

namespace Sys2Proof.Machine

/-- `NOP` (R120). -/
def execNop (s : State) : Host.Outcome State Fault Refusal := .next s

/-- `LDCTR a` (R121). -/
def execLdctr (a : Word) (s : State) : Host.Outcome State Fault Refusal := .next (s.loadCtr a)

/-- `LDKEY b` (R122). -/
def execLdkey (b : Word) (s : State) : Host.Outcome State Fault Refusal := .next (s.loadKey b)

/-- `INIT a, b`: both writes in one atomic step (R123, R44). -/
def execInit (a b : Word) (s : State) : Host.Outcome State Fault Refusal := .next ((s.loadCtr a).loadKey b)

end Sys2Proof.Machine
end

