-- ==== Sys2Proof/Machine/Draw.lean ====
section
/-! DEFINITION. The instance generate commands, the draws (43_instance.md R140, R141). A draw from a counter that is not loaded runs
like any other (70_reset_and_hazards.md R175; log entry 11). -/

namespace Sys2Proof.Machine

/-- `NEXT32`: the output of the old counter, the advance, the 32-bit response, in one atomic step (R140, R44, C8). -/
def execNext32 (s : State) : Host.Outcome State Fault Refusal :=
  let v := squares32 s.ctr s.key
  .next (s.advance.respond32 v)

/-- `NEXT64`: the same with `SQ64` (R141). -/
def execNext64 (s : State) : Host.Outcome State Fault Refusal :=
  let v := squares64 s.ctr s.key
  .next (s.advance.respond64 v)

end Sys2Proof.Machine
end

