-- ==== Sys2Proof/Machine/Pure.lean ====
section
/-! DEFINITION. The pure generate commands (42_pure.md R130, R131): `CTR` and `KEY` take no part. -/

namespace Sys2Proof.Machine

/-- `RAND32 a, b` (R130). -/
def execRand32 (a b : Word) (s : State) : Host.Outcome State Fault Refusal := .next (s.respond32 (squares32 a b))

/-- `RAND64 a, b` (R131). -/
def execRand64 (a b : Word) (s : State) : Host.Outcome State Fault Refusal := .next (s.respond64 (squares64 a b))

end Sys2Proof.Machine
end

