-- ==== Sys2Proof/Machine/Dispatch.lean ====
section
/-! DEFINITION. One arm per command, each a direct call of its meaning. -/

namespace Sys2Proof.Machine

/-- One command as one atomic transition (R18, R44). -/
def exec (i : Instr) (s : State) : Host.Outcome State Fault Refusal :=
  match i with
  | .nop => Sys2Proof.Machine.execNop s
  | .ldctr a => Sys2Proof.Machine.execLdctr a s
  | .ldkey b => Sys2Proof.Machine.execLdkey b s
  | .init a b => Sys2Proof.Machine.execInit a b s
  | .next32 => Sys2Proof.Machine.execNext32 s
  | .next64 => Sys2Proof.Machine.execNext64 s
  | .rand32 a b => Sys2Proof.Machine.execRand32 a b s
  | .rand64 a b => Sys2Proof.Machine.execRand64 a b s

end Sys2Proof.Machine
end

