-- ==== Sys2Proof/Machine/Port.lean ====
section
/-! DEFINITION. What one sample of the host's ports does to the block (30_encoding.md R60 to R63; 70_reset_and_hazards.md R170,
R173), and how a command is put on the command port. -/

namespace Sys2Proof.Machine

/-- One sample: `rst` wins over a command (R153, R173); an accepted command is decoded and executed (R61, R63); with
`cmd_valid = 0` nothing happens (R63). -/
def receive (p : HostPorts) (s : State) : Host.Outcome State Fault Refusal :=
  if p.rst then .next s.applyReset
  else if accepts p s then exec (decode p.cmdOp p.cmdA p.cmdB) s
  else .next s

/-- The ports while the host presents the command of a command word (R61, R66). -/
def presentWord (w : CommandWord) : HostPorts where
  rst := false
  cmdValid := true
  cmdOp := opField w
  cmdA := aField w
  cmdB := bField w

/-- The ports while the host presents a command, its ignored fields zero (R74). -/
def present (i : Instr) : HostPorts := presentWord (encode i)

/-- The ports while the host holds `cmd_valid = 0` (R63). -/
def portsIdle : HostPorts where
  rst := false
  cmdValid := false
  cmdOp := 0
  cmdA := 0
  cmdB := 0

/-- The ports while the host asserts `rst` and presents no command (R170). -/
def portsReset : HostPorts := { portsIdle with rst := true }

/-- The host presents a command before everything else it will drive. -/
def State.presentFirst (w : CommandWord) (s : State) : State := { s with host := presentWord w :: s.host }

end Sys2Proof.Machine
end

