-- ==== Sys2Proof/Machine/Step.lean ====
section
/-! DEFINITION. One step: the next sample of the host's ports, taken whole (00_scope.md R18; 30_encoding.md R63). -/

namespace Sys2Proof.Machine

/-- One step. With nothing driven the block is idle and its state does not change (R63, R164). -/
def step (s : State) : Host.Outcome State Fault Refusal :=
  match s.fetch with
  | none => .next s
  | some (p, s') => receive p s'

/-- `s` with a command, in the opcode table's numbering, on the command port at the next step (log entries 5, 6). -/
def State.withFetchWord (s : State) (nbits w : Nat) : State := s.presentFirst (tableWord nbits w)

end Sys2Proof.Machine
end

