-- ==== Sys2Proof/Machine/Listing.lean ====
section
/-! DEFINITION. The textual syntax of listings (30_encoding.md R74, R75; 00_scope.md R12): writing a line and reading it.
What R74 leaves open (spaces, capitals in numbers) is log entry 14. -/

namespace Sys2Proof.Machine

/-- A line of a listing with the response shown after `->`, if one is (R74). -/
structure ListedLine where
  line : Line
  shown : Option Response
  deriving DecidableEq, Repr

/-- A response is written in the digits of its width, so a narrow one has zeros in bits 63:32 (R64). -/
def Response.wellFormed (r : Response) : Bool := r.w64 || hi32 r.data == 0

/-- A listed line is well-formed when its shown response is. -/
def ListedLine.wellFormed (l : ListedLine) : Bool := l.shown.all Response.wellFormed

/-- A hexadecimal digit, 0 to 15, in capitals as the spec writes them. -/
def hexDigit (n : Nat) : Char := Char.ofNat (if n < 10 then 48 + n else 55 + n)

/-- The value of a hexadecimal digit in capitals. -/
def hexValue (c : Char) : Option Nat :=
  if 48 ≤ c.toNat ∧ c.toNat ≤ 57 then some (c.toNat - 48)
  else if 65 ≤ c.toNat ∧ c.toNat ≤ 70 then some (c.toNat - 55)
  else none

/-- The last `k` hexadecimal digits of a number, most significant first. -/
def hexDigits : Nat → Nat → List Char
  | 0, _ => []
  | k + 1, v => hexDigits k (v / 16) ++ [hexDigit (v % 16)]

/-- The number a list of hexadecimal digits stands for, `acc` standing before them. -/
def hexNumber (acc : Nat) : List Char → Option Nat
  | [] => some acc
  | c :: cs =>
    match hexValue c with
    | some d => hexNumber (acc * 16 + d) cs
    | none => none

/-- A hexadecimal literal of `k` digits (R12). -/
def writeHex (k v : Nat) : List Char := '0' :: 'x' :: hexDigits k v

/-- Reading a hexadecimal literal of exactly `k` digits (R12). -/
def readHex (k : Nat) : List Char → Option Nat
  | '0' :: 'x' :: ds => if ds.length = k then hexNumber 0 ds else none
  | _ => none

/-- A 64-bit literal, 16 digits (R12). -/
def writeWord (v : Word) : List Char := writeHex 16 v.toNat

/-- Reading a 64-bit literal. -/
def readWord (cs : List Char) : Option Word := (readHex 16 cs).map (BitVec.ofNat 64)

/-- Two operands, separated by a comma (R74). -/
def writeOperands (a b : Word) : List Char := writeWord a ++ ',' :: ' ' :: writeWord b

/-- The text of a line (R74, R75). -/
def writeLine : Line → List Char
  | .command .nop => ['N', 'O', 'P']
  | .command (.ldctr a) => ['L', 'D', 'C', 'T', 'R', ' '] ++ writeWord a
  | .command (.ldkey b) => ['L', 'D', 'K', 'E', 'Y', ' '] ++ writeWord b
  | .command (.init a b) => ['I', 'N', 'I', 'T', ' '] ++ writeOperands a b
  | .command .next32 => ['N', 'E', 'X', 'T', '3', '2']
  | .command .next64 => ['N', 'E', 'X', 'T', '6', '4']
  | .command (.rand32 a b) => ['R', 'A', 'N', 'D', '3', '2', ' '] ++ writeOperands a b
  | .command (.rand64 a b) => ['R', 'A', 'N', 'D', '6', '4', ' '] ++ writeOperands a b
  | .nextU32 c k => ['n', 'e', 'x', 't', '_', 'u', '3', '2', ' '] ++ writeOperands c k
  | .nextU64 c k => ['n', 'e', 'x', 't', '_', 'u', '6', '4', ' '] ++ writeOperands c k
  | .next32 => ['n', 'e', 'x', 't', '3', '2']
  | .next64 => ['n', 'e', 'x', 't', '6', '4']
  | .newCtr c => ['N', 'E', 'W', ' '] ++ writeWord c
  | .newCtrKey c k => ['N', 'E', 'W', 'K', ' '] ++ writeOperands c k
  | .sampleCtr => ['?', ' ', 'c', 't', 'r', '_', 'q']
  | .sampleKey => ['?', ' ', 'k', 'e', 'y', '_', 'q']

/-- The text of a shown response: 8 digits for a 32-bit value, 16 for a 64-bit one (R12, R74). -/
def writeResponse (r : Response) : List Char :=
  [' ', '-', '>', ' '] ++ if r.w64 then writeWord r.data else writeHex 8 r.data.toNat

/-- The text of a listed line. -/
def writeListed (l : ListedLine) : List Char :=
  writeLine l.line ++
    match l.shown with
    | none => []
    | some r => writeResponse r

/-- A word that has ended, if there is one, before the words after it. -/
def endWord (word : List Char) (rest : List (List Char)) : List (List Char) :=
  if word = [] then rest else word :: rest

/-- The words of a line: separated by spaces, a comma a word of its own, a `;` ends the line (R74). `word` is the word
being read. -/
def splitWords : List Char → List Char → List (List Char)
  | word, [] => endWord word []
  | word, c :: cs =>
    if c = ';' then endWord word []
    else if c = ' ' then endWord word (splitWords [] cs)
    else if c = ',' then endWord word ([','] :: splitWords [] cs)
    else splitWords (word ++ [c]) cs

/-- Reading one operand and what follows it. -/
def readOne (make : Word → Line) : List (List Char) → Option (Line × List (List Char))
  | a :: rest =>
    match readWord a with
    | some v => some (make v, rest)
    | none => none
  | [] => none

/-- Reading two operands separated by a comma and what follows them. -/
def readTwo (make : Word → Word → Line) : List (List Char) → Option (Line × List (List Char))
  | a :: comma :: b :: rest =>
    if comma = [','] then
      match readWord a, readWord b with
      | some v, some u => some (make v u, rest)
      | _, _ => none
    else none
  | _ => none

/-- Reading the name of a sampled port and what follows it. -/
def readSample : List (List Char) → Option (Line × List (List Char))
  | port :: rest =>
    if port = ['c', 't', 'r', '_', 'q'] then some (.sampleCtr, rest)
    else if port = ['k', 'e', 'y', '_', 'q'] then some (.sampleKey, rest)
    else none
  | [] => none

/-- Reading a line's words: the mnemonic, then its operands (R74, R75). -/
def readLine : List (List Char) → Option (Line × List (List Char))
  | [] => none
  | m :: rest =>
    if m = ['N', 'O', 'P'] then some (.command .nop, rest)
    else if m = ['L', 'D', 'C', 'T', 'R'] then readOne (fun a => .command (.ldctr a)) rest
    else if m = ['L', 'D', 'K', 'E', 'Y'] then readOne (fun b => .command (.ldkey b)) rest
    else if m = ['I', 'N', 'I', 'T'] then readTwo (fun a b => .command (.init a b)) rest
    else if m = ['N', 'E', 'X', 'T', '3', '2'] then some (.command .next32, rest)
    else if m = ['N', 'E', 'X', 'T', '6', '4'] then some (.command .next64, rest)
    else if m = ['R', 'A', 'N', 'D', '3', '2'] then readTwo (fun a b => .command (.rand32 a b)) rest
    else if m = ['R', 'A', 'N', 'D', '6', '4'] then readTwo (fun a b => .command (.rand64 a b)) rest
    else if m = ['n', 'e', 'x', 't', '_', 'u', '3', '2'] then readTwo (fun c k => .nextU32 c k) rest
    else if m = ['n', 'e', 'x', 't', '_', 'u', '6', '4'] then readTwo (fun c k => .nextU64 c k) rest
    else if m = ['n', 'e', 'x', 't', '3', '2'] then some (.next32, rest)
    else if m = ['n', 'e', 'x', 't', '6', '4'] then some (.next64, rest)
    else if m = ['N', 'E', 'W'] then readOne (fun c => .newCtr c) rest
    else if m = ['N', 'E', 'W', 'K'] then readTwo (fun c k => .newCtrKey c k) rest
    else if m = ['?'] then readSample rest
    else none

/-- Reading what may follow a line: nothing, or `->` and a response of 8 or 16 digits (R74). -/
def readShown : List (List Char) → Option (Option Response)
  | [] => some none
  | [arrow, v] =>
    if arrow = ['-', '>'] then
      match readHex 8 v, readWord v with
      | some h, _ => some (some { w64 := false, data := BitVec.ofNat 64 h })
      | none, some u => some (some { w64 := true, data := u })
      | none, none => none
    else none
  | _ => none

/-- Reading the words of a whole listed line. -/
def readListedWords (ws : List (List Char)) : Option ListedLine :=
  match readLine ws with
  | none => none
  | some (line, rest) =>
    match readShown rest with
    | none => none
    | some shown => some { line, shown }

/-- Reading a line's text. -/
def readListed (cs : List Char) : Option ListedLine := readListedWords (splitWords [] cs)

/-- Reading a listing, one command per line; a line with nothing before its comment is skipped (R74). -/
def readListing : List (List Char) → Option (List ListedLine)
  | [] => some []
  | cs :: rest =>
    if splitWords [] cs = [] then readListing rest
    else
      match readListed cs, readListing rest with
      | some l, some ls => some (l :: ls)
      | _, _ => none

end Sys2Proof.Machine
end

