-- ==== Sys2Proof/Machine/Schedule.lean ====
section
/-! DEFINITION. The use of the sub-blocks by one generate command, step by step (40_datapath.md R113, R99). It computes what
Datapath.lean defines; its arrangement is not observable (R18, R99, D14; log entry 19), so no meaning rests on it. -/

namespace Sys2Proof.Machine

/-- `msel`: the multiplier's operands (R113). -/
inductive MulSelect where
  /-- `(c, k)`. -/
  | counterKey
  /-- `(x, x)`, the value of the last round. -/
  | square
  /-- Multiplier idle: the adder's first operand is `y`. -/
  | idle
  deriving DecidableEq, Repr

/-- `asel`: what is added to the product (R113). -/
inductive AddSelect where
  /-- None: add 0. -/
  | none
  /-- The key `k` (step 1b). -/
  | key
  /-- `y`. -/
  | y
  /-- `z`. -/
  | z
  deriving DecidableEq, Repr

/-- `psel` with the last column of R113's table: what is done with the sum and what it is kept as. -/
inductive PostSelect where
  /-- Pass, kept as `y` and `x0`. -/
  | passToYX
  /-- Pass, kept as `z`. -/
  | passToZ
  /-- `rot32`, kept as the next `x`. -/
  | rotToX
  /-- `hi32`, kept as `out32` (zero-extended by the output selector, R105). -/
  | highToOut
  /-- Pass and `rot32` both, kept as `t` and `x4`. -/
  | passToTRotToX
  /-- `hi32`, then `xor64` with `t`, kept as `out64`. -/
  | highXorTToOut
  deriving DecidableEq, Repr

/-- One row of R113's table. -/
structure ScheduleRow where
  msel : MulSelect
  asel : AddSelect
  psel : PostSelect
  deriving DecidableEq, Repr

/-- The transient values an iterative implementation keeps between rows (R30). What they hold before the first row does not
matter: each is written before it is used (log entry 19). -/
structure Latches where
  y : Word
  z : Word
  x : Word
  t : Word
  out : Word
  deriving DecidableEq, Repr

/-- The multiplier's output, or `y` when it is idle. -/
def mulStage (c k : Word) (m : MulSelect) (l : Latches) : Word :=
  match m with
  | .counterKey => mul64 c k
  | .square => sq64 l.x
  | .idle => l.y

/-- The adder's second operand. -/
def addStage (k : Word) (a : AddSelect) (l : Latches) : Word :=
  match a with
  | .none => 0
  | .key => k
  | .y => l.y
  | .z => l.z

/-- The post-add multiplexer and what it keeps. -/
def postStage (p : PostSelect) (sum : Word) (l : Latches) : Latches :=
  match p with
  | .passToYX => { l with y := sum, x := sum }
  | .passToZ => { l with z := sum }
  | .rotToX => { l with x := rot32 sum }
  | .highToOut => { l with out := zext64 (hi32 sum) }
  | .passToTRotToX => { l with t := sum, x := rot32 sum }
  | .highXorTToOut => { l with out := xor64 l.t (zext64 (hi32 sum)) }

/-- One row: multiply, add, keep. -/
def runRow (c k : Word) (l : Latches) (r : ScheduleRow) : Latches :=
  postStage r.psel (add64 (mulStage c k r.msel l) (addStage k r.asel l)) l

/-- Rows 1a, 1b and rounds 1 to 3 of R113's table, the same for both widths (R103). -/
def scheduleCommon : List ScheduleRow :=
  [ { msel := .counterKey, asel := .none, psel := .passToYX },
    { msel := .idle, asel := .key, psel := .passToZ },
    { msel := .square, asel := .y, psel := .rotToX },
    { msel := .square, asel := .z, psel := .rotToX },
    { msel := .square, asel := .y, psel := .rotToX } ]

/-- The rows of one generate command of the given width (R113). -/
def schedule (w64 : Bool) : List ScheduleRow :=
  scheduleCommon ++
    if w64 then
      [ { msel := .square, asel := .z, psel := .passToTRotToX },
        { msel := .square, asel := .y, psel := .highXorTToOut } ]
    else
      [ { msel := .square, asel := .z, psel := .highToOut } ]

/-- Running rows in order from the given latches. -/
def runRows (c k : Word) (rows : List ScheduleRow) (l : Latches) : Latches :=
  rows.foldl (runRow c k) l

/-- How many rows use the multiplier (R182). -/
def multiplierPasses (w64 : Bool) : Nat := ((schedule w64).filter (fun r => r.msel != .idle)).length

end Sys2Proof.Machine
end

