-- ==== Sys2Proof/Machine/System.lean ====
section
/-! DEFINITION. Several blocks side by side (60_exceptions.md R162; 10_state.md R24): they share nothing, and which one steps is
chosen outside (log entry 15). -/

namespace Sys2Proof.Machine

/-- The blocks of a system. They have no identifiers (R162); the place in the list only says which one is meant.
All of them are built from one configuration: `weylInc` and `defaultKey` are the same for all (DESIGN CHOICE, log entry 21; R24
and R172 say so only of blocks of one configuration). -/
structure System where
  /-- The blocks, in any order. -/
  blocks : List State
  deriving DecidableEq, Repr

/-- A system of `k` blocks right after power-up, each with a free counter of its own (R162, R170). Log entry 20. -/
def System.powerUp (k : Nat) : System where
  blocks := (List.range k).map State.powerUp

/-- Each block draws its free values from its own place, so no two blocks share one (R24, R162). Log entry 20. -/
def System.Numbered (y : System) : Prop := ∀ (n : Nat) (s : State), y.blocks[n]? = some s → s.block = n

/-- One step of block `n`; where there is no such block nothing happens. -/
def System.stepBlock (n : Nat) (y : System) : Host.Outcome System Fault Refusal :=
  match y.blocks[n]? with
  | none => .next y
  | some s =>
    match step s with
    | .next t => .next { blocks := y.blocks.set n t }
    | .fault r => .fault r
    | .refused r => .refused r

end Sys2Proof.Machine
end

