-- ==== Sys2Proof/Safety.lean ====
section
/-! DEFINITION. The terms claims use: kinds of commands, sequences of commands, the host's obligations (R174), requesters'
interleavings (R50), the invariant of the responses (R64). -/

namespace Sys2Proof

/-- A draw: `NEXT32` or `NEXT64` (R16). -/
def Instr.isDraw : Instr → Bool
  | .nop => false
  | .ldctr _ => false
  | .ldkey _ => false
  | .init _ _ => false
  | .next32 => true
  | .next64 => true
  | .rand32 _ _ => false
  | .rand64 _ _ => false

/-- A pure command: `RAND32` or `RAND64` (R55). -/
def Instr.isPure : Instr → Bool
  | .nop => false
  | .ldctr _ => false
  | .ldkey _ => false
  | .init _ _ => false
  | .next32 => false
  | .next64 => false
  | .rand32 _ _ => true
  | .rand64 _ _ => true

/-- A generate command: one that responds (R49). -/
def Instr.isGenerate (i : Instr) : Bool := i.isDraw || i.isPure

/-- A command that loads the counter (R171). -/
def Instr.loadsCtr : Instr → Bool
  | .nop => false
  | .ldctr _ => true
  | .ldkey _ => false
  | .init _ _ => true
  | .next32 => false
  | .next64 => false
  | .rand32 _ _ => false
  | .rand64 _ _ => false

/-- A command that loads the key (R22). -/
def Instr.loadsKey : Instr → Bool
  | .nop => false
  | .ldctr _ => false
  | .ldkey _ => true
  | .init _ _ => true
  | .next32 => false
  | .next64 => false
  | .rand32 _ _ => false
  | .rand64 _ _ => false

/-- How many draws a sequence has (R142). -/
def drawCount (l : List Instr) : Nat := l.countP Instr.isDraw

/-- How many generate commands a sequence has (R49). -/
def generateCount (l : List Instr) : Nat := l.countP Instr.isGenerate

/-- The host loads the counter before the first draw (R174): `loaded` says whether it already is. -/
def loadsBeforeDraws (loaded : Bool) : List Instr → Bool
  | [] => true
  | i :: is => (loaded || !i.isDraw) && loadsBeforeDraws (loaded || i.loadsCtr) is

/-- `zs` is an order in which an arbiter may let the commands of two requesters through (R50). -/
inductive Interleaving {α : Type} : List α → List α → List α → Prop where
  /-- Nothing is left. -/
  | done : Interleaving [] [] []
  /-- The first requester's next command goes first. -/
  | left (x : α) (xs ys zs : List α) : Interleaving xs ys zs → Interleaving (x :: xs) ys (x :: zs)
  /-- The second requester's next command goes first. -/
  | right (y : α) (xs ys zs : List α) : Interleaving xs ys zs → Interleaving xs (y :: ys) (y :: zs)

namespace Machine

/-- Commands executed one after another (R48). -/
def execAll : List Instr → State → Host.Outcome State Fault Refusal
  | [], s => .next s
  | i :: is, s =>
    match exec i s with
    | .next t => execAll is t
    | .fault r => .fault r
    | .refused r => .refused r

/-- The response of a 32-bit generate command with counter `c` and key `k` (R64, R130, R140). -/
def narrowResponse (c k : Word) : Response := { w64 := false, data := zext64 (squares32 c k) }

/-- The response of a 64-bit generate command with counter `c` and key `k` (R64, R131, R141). -/
def wideResponse (c k : Word) : Response := { w64 := true, data := squares64 c k }

/-- The response of a draw, by its width, from counter `c` and key `k`. -/
def drawResponse (i : Instr) (c k : Word) : Response :=
  if i = .next64 then wideResponse c k else narrowResponse c k

/-- The `n`-th counter value from `c0` (R142). -/
def counterAt (c0 : Word) (n : Nat) : Word := c0 + BitVec.ofNat 64 n * weylInc

/-- Every narrow response recorded has zeros in `rsp_data[63:32]` (R64). -/
def ResponsesInv (s : State) : Prop := ∀ r ∈ s.responses, r.w64 = false → hi32 r.data = 0

/-- What the host drives asserts no reset (R173, U5). -/
def noReset (ps : List HostPorts) : Bool := ps.all (fun p => !p.rst)

/-- What the host drives loads no key (R22). -/
def noKeyLoad (ps : List HostPorts) : Bool :=
  ps.all (fun p => !(p.cmdValid && (decode p.cmdOp p.cmdA p.cmdB).loadsKey))

end Machine

end Sys2Proof
end

