-- ==== Sys2Proof/Certificates/Slice0/Obligations.lean ====
section
/-! DEFINITION. The statements for the provers. `K` and `G` below are the spec's own test key and example increment
(95_test_vectors.md). A rule that the spec marks [derived] is cited by its section and the statement's basis is 'derived'. -/

open Sys2Proof Sys2Proof.Machine Host

/-! ## Encoding (30_encoding.md) -/

/-- V90 to V98 of 95_test_vectors.md: command words written out from R66 and R70 decode to their commands. -/
def Obligations.CommandWordsDecode : Prop :=
  decodeWord 0x0_0000000000000000_0000000000000000 = .nop ∧
  decodeWord 0x1_0000000000000007_0000000000000000 = .ldctr 7 ∧
  decodeWord 0x2_0000000000000000_548C9DECBCE65297 = .ldkey 0x548C9DECBCE65297 ∧
  decodeWord 0x3_0000000000000001_548C9DECBCE65297 = .init 1 0x548C9DECBCE65297 ∧
  decodeWord 0x4_0000000000000000_0000000000000000 = .next32 ∧
  decodeWord 0x5_0000000000000000_0000000000000000 = .next64 ∧
  decodeWord 0x6_0000000000000001_548C9DECBCE65297 = .rand32 1 0x548C9DECBCE65297 ∧
  decodeWord 0x7_FFFFFFFFFFFFFFFF_548C9DECBCE65297 = .rand64 0xFFFFFFFFFFFFFFFF 0x548C9DECBCE65297 ∧
  decodeWord 0x4_DEADBEEFCAFEBABE_0123456789ABCDEF = .next32 ∧
  decodeWord 0x0_FFFFFFFFFFFFFFFF_FFFFFFFFFFFFFFFF = .nop

/-- R70: the eight rows of the opcode map, each with its whole effect and response. -/
def Obligations.OpcodeMapGivesEffects : Prop :=
  ∀ (a b : Word) (s : State),
    exec (decode 0b000 a b) s = .next s ∧
    exec (decode 0b001 a b) s = .next { s with ctr := a, loaded := true } ∧
    exec (decode 0b010 a b) s = .next { s with key := b } ∧
    exec (decode 0b011 a b) s = .next { s with ctr := a, key := b, loaded := true } ∧
    exec (decode 0b100 a b) s = .next { s with
      ctr := s.ctr + weylInc
      responses := s.responses ++ [{ w64 := false, data := (squares32 s.ctr s.key).setWidth 64 }] } ∧
    exec (decode 0b101 a b) s = .next { s with
      ctr := s.ctr + weylInc
      responses := s.responses ++ [{ w64 := true, data := squares64 s.ctr s.key }] } ∧
    exec (decode 0b110 a b) s = .next { s with
      responses := s.responses ++ [{ w64 := false, data := (squares32 a b).setWidth 64 }] } ∧
    exec (decode 0b111 a b) s = .next { s with
      responses := s.responses ++ [{ w64 := true, data := squares64 a b }] }

/-- R67 and R68: a field the command ignores may hold anything; of a field it uses, two values decode to two commands, and
the field is used as the table of R67 says. (Two commands may still have one effect: `RAND32 a, 0` responds 0 for every `a`.) -/
def Obligations.IgnoredFieldsHaveNoEffect : Prop :=
  (∀ (op : OpField) (a a' b : Word), op ∈ [0b000, 0b010, 0b100, 0b101] →
    ∀ s, exec (decode op a b) s = exec (decode op a' b) s) ∧
  (∀ (op : OpField) (a b b' : Word), op ∈ [0b000, 0b001, 0b100, 0b101] →
    ∀ s, exec (decode op a b) s = exec (decode op a b') s) ∧
  (∀ (op : OpField) (a a' b : Word), op ∈ [0b001, 0b011, 0b110, 0b111] → a ≠ a' →
    decode op a b ≠ decode op a' b) ∧
  (∀ (op : OpField) (a b b' : Word), op ∈ [0b010, 0b011, 0b110, 0b111] → b ≠ b' →
    decode op a b ≠ decode op a b') ∧
  (∀ (a b : Word) (s : State),
    (∃ t, exec (decode 0b001 a b) s = .next t ∧ t.ctr = a) ∧
    (∃ t, exec (decode 0b010 a b) s = .next t ∧ t.key = b) ∧
    (∃ t, exec (decode 0b011 a b) s = .next t ∧ t.ctr = a ∧ t.key = b) ∧
    (∃ t, exec (decode 0b110 a b) s = .next t ∧ t.responses = s.responses ++ [narrowResponse a b]) ∧
    (∃ t, exec (decode 0b111 a b) s = .next t ∧ t.responses = s.responses ++ [wideResponse a b]))

/-- R71 (marked derived): the three bits of `op` give every command's effect in one formula: `op[2]` generate or construct,
`op[1]` pure or key, `op[0]` width or counter. -/
def Obligations.OpBitsGiveTheEffect : Prop :=
  ∀ (op : OpField) (a b : Word) (s : State),
    exec (decode op a b) s =
      if op.getLsbD 2 then
        .next { s with
          ctr := if op.getLsbD 1 then s.ctr else weyl s.ctr
          responses := s.responses ++ [{
            w64 := op.getLsbD 0
            data := outputSelector (op.getLsbD 0)
              (trace (if op.getLsbD 1 then a else s.ctr) (if op.getLsbD 1 then b else s.key)) }] }
      else
        .next { s with
          ctr := if op.getLsbD 0 then a else s.ctr
          key := if op.getLsbD 1 then b else s.key
          loaded := s.loaded || op.getLsbD 0 }

/-- R72: all 2^131 words are legal commands, none stops, and `NOP` is the only encoding that does nothing. -/
def Obligations.EveryWordIsLegalAndOnlyNopIdles : Prop :=
  (∀ (w : CommandWord) (s : State), ∃ t, exec (decodeWord w) s = .next t) ∧
  (∀ w : CommandWord, (∀ s : State, exec (decodeWord w) s = .next s) ↔ opField w = 0b000)

/-- Decoding an encoded command gives it back, whatever stands in the fields it ignores (R66, R68, R70). -/
def Obligations.DecodeOfEncodeIsTheCommand : Prop :=
  ∀ (fa fb : Word) (i : Instr), decodeWord (encodeWith fa fb i) = i

/-- Every command word is the encoding of what it decodes to, its own bits in the ignored fields: no bit of any of the
2^131 words is dropped (R66, R70, R72). -/
def Obligations.EncodeOfDecodeIsTheWord : Prop :=
  ∀ w : CommandWord, encodeWith (aField w) (bField w) (decodeWord w) = w

/-- Reading the text of a listed line gives the line back, with or without a comment after it (30_encoding.md section 4; the
details of the text are the model's, log entry 14). -/
def Obligations.ListingTextReadsBack : Prop :=
  ∀ l : ListedLine, l.wellFormed = true →
    readListed (writeListed l) = some l ∧
    ∀ comment : List Char, readListed (writeListed l ++ ';' :: comment) = some l

/-- R75: the aliases and pseudo-commands, and when `NEW c` constructs with the default key. -/
def Obligations.AliasesExpandOneForOne : Prop :=
  ∀ c k : Word,
    Line.expand (.nextU32 c k) = some (.rand32 c k) ∧
    Line.expand (.nextU64 c k) = some (.rand64 c k) ∧
    Line.expand .next32 = some .next32 ∧
    Line.expand .next64 = some .next64 ∧
    Line.expand (.newCtr c) = some (.ldctr c) ∧
    Line.expand (.newCtrKey c k) = some (.init c k) ∧
    ∀ s : State, exec (.ldctr c) s = exec (.init c defaultKey) s ↔ s.key = defaultKey

/-! ## Datapath (40_datapath.md) -/

/-- R91: the product and the square keep bits 63:0, read unsigned or signed alike, with the rule's corner cases. -/
def Obligations.MultiplyKeepsTheLow64Bits : Prop :=
  (∀ a b : Word,
    (mul64 a b).toNat = a.toNat * b.toNat % 2 ^ 64 ∧
    mul64 a b = BitVec.ofInt 64 (a.toInt * b.toInt) ∧
    mul64 a 0 = 0 ∧ mul64 a 1 = a ∧ sq64 a = mul64 a a) ∧
  sq64 0 = 0 ∧ sq64 1 = 1 ∧ sq64 0xFFFFFFFFFFFFFFFF = 1 ∧ sq64 0x0000000100000000 = 0 ∧
  sq64 0x8000000000000000 = 0 ∧ sq64 0x00000000FFFFFFFF = 0xFFFFFFFE00000001 ∧
  sq64 0x548C9DECBCE65297 = 0xC28094EE49F91511 ∧
  (0x548C9DECBCE65297 * 0x548C9DECBCE65297 : Nat) = 0x1BEC94E07851FCBC_C28094EE49F91511

/-- R92: the sum drops the carry, with the rule's corner cases. -/
def Obligations.AddDropsTheCarry : Prop :=
  (∀ p q : Word, (add64 p q).toNat = (p.toNat + q.toNat) % 2 ^ 64 ∧ add64 p 0 = p) ∧
  add64 0xFFFFFFFFFFFFFFFF 1 = 0 ∧
  add64 0xFFFFFFFFFFFFFFFF 0xFFFFFFFFFFFFFFFF = 0xFFFFFFFFFFFFFFFE ∧
  add64 0x8000000000000000 0x8000000000000000 = 0 ∧
  add64 0x548C9DECBCE65297 0x548C9DECBCE65297 = 0xA9193BD979CCA52E

/-- R94: the rotation by 32 as a formula on integers and as a swap of halves; left and right are the same. -/
def Obligations.RotateBy32SwapsTheHalves : Prop :=
  (∀ v : Word,
    (rot32 v).toNat = v.toNat % 2 ^ 32 * 2 ^ 32 + v.toNat / 2 ^ 32 ∧
    hi32 (rot32 v) = lo32 v ∧ lo32 (rot32 v) = hi32 v ∧
    rot32 v = v.rotateLeft 32 ∧ rot32 v = v.rotateRight 32) ∧
  rot32 0x0123456789ABCDEF = 0x89ABCDEF01234567

/-- R95 (marked derived): the laws of the rotation and the patterns the document asks to be tested. -/
def Obligations.RotateBy32Laws : Prop :=
  (∀ v : Word, rot32 (rot32 v) = v) ∧ Function.Bijective rot32 ∧
  (∀ v : Word, rot32 v = v ↔ hi32 v = lo32 v) ∧
  rot32 0x00000000DEADBEEF = 0xDEADBEEF00000000 ∧ rot32 0xDEADBEEF00000000 = 0x00000000DEADBEEF ∧
  rot32 0x00000000FFFFFFFF = 0xFFFFFFFF00000000 ∧ rot32 0xFFFFFFFF00000000 = 0x00000000FFFFFFFF ∧
  rot32 0 = 0 ∧ rot32 0xFFFFFFFFFFFFFFFF = 0xFFFFFFFFFFFFFFFF ∧
  rot32 0x8000000000000001 = 0x0000000180000000

/-- R96: the high half is the logical shift right by 32, as an integer and as a shift, with the rule's examples. -/
def Obligations.HighHalfIsALogicalShift : Prop :=
  (∀ v : Word, (hi32 v).toNat = v.toNat / 2 ^ 32 ∧ zext64 (hi32 v) = v >>> 32) ∧
  hi32 0x944716E0563997F7 = 0x944716E0 ∧ hi32 0x00000000FFFFFFFF = 0 ∧
  hi32 0xFFFFFFFF00000000 = 0xFFFFFFFF ∧ hi32 0x8000000000000001 = 0x80000000

/-- R97: exclusive or bit by bit; an operand below 2^32 leaves bits 63:32 of the other. -/
def Obligations.XorIsBitwise : Prop :=
  (∀ (p q : Word) (i : Nat), i < 64 →
    ((xor64 p q).getLsbD i).toNat = ((p.getLsbD i).toNat + (q.getLsbD i).toNat) % 2) ∧
  (∀ p q : Word, q.toNat < 2 ^ 32 → hi32 (xor64 p q) = hi32 p)

/-- R98: the term of the wide output is the zero-extended high half. A sign-filling shift in its place gives the same output
exactly when bit 63 of the round-5 sum is 0, and inverts the output's high half when it is 1; in the narrow output the two
shifts give the same 32 bits. -/
def Obligations.SignFillWouldInvertTheHighHalf : Prop :=
  (∀ c k : Word,
    squares64 c k = (trace c k).s4 ^^^ zext64 (hi32 (trace c k).s5) ∧
    hi32 (zext64 (hi32 (trace c k).s5)) = 0 ∧
    (squares64 c k = (trace c k).s4 ^^^ (trace c k).s5.sshiftRight 32 ↔ (trace c k).s5.getLsbD 63 = false) ∧
    ((trace c k).s5.getLsbD 63 = true →
      hi32 ((trace c k).s4 ^^^ (trace c k).s5.sshiftRight 32) = ~~~ hi32 (squares64 c k)) ∧
    lo32 ((trace c k).s4.sshiftRight 32) = squares32 c k) ∧
  (trace 0 0x548C9DECBCE65297).s4 = 0x36D88366219CD448 ∧
  (trace 0 0x548C9DECBCE65297).s5 = 0xEF7AE7ED07918CA4 ∧
  squares64 0 0x548C9DECBCE65297 = 0x36D88366CEE633A5 ∧
  0x36D88366219CD448#64 ^^^ (0xEF7AE7ED07918CA4#64).sshiftRight 32 = 0xC9277C99CEE633A5#64

/-- R102, its equivalent form marked derived: the key schedule. -/
def Obligations.KeyScheduleTerms : Prop :=
  (∀ c k : Word,
    (trace c k).y = mul64 c k ∧ (trace c k).x0 = (trace c k).y ∧ (trace c k).z = add64 (trace c k).y k ∧
    (trace c k).z = mul64 (add64 c 1) k) ∧
  (trace 1 0x548C9DECBCE65297).y = 0x548C9DECBCE65297 ∧ (trace 1 0x548C9DECBCE65297).z = 0xA9193BD979CCA52E

/-- R103 and R104: the rounds, their alternating addends, the two outputs, with the examples for `c = 1`, `k = K`. -/
def Obligations.RoundsAlternateTheAddends : Prop :=
  (∀ x a : Word, rsum x a = add64 (sq64 x) a ∧ Sys2Proof.Machine.round x a = rot32 (rsum x a)) ∧
  (∀ c k : Word,
    (trace c k).s1 = rsum (trace c k).x0 (trace c k).y ∧ (trace c k).x1 = rot32 (trace c k).s1 ∧
    (trace c k).s2 = rsum (trace c k).x1 (trace c k).z ∧ (trace c k).x2 = rot32 (trace c k).s2 ∧
    (trace c k).s3 = rsum (trace c k).x2 (trace c k).y ∧ (trace c k).x3 = rot32 (trace c k).s3 ∧
    (trace c k).s4 = rsum (trace c k).x3 (trace c k).z ∧ (trace c k).x4 = rot32 (trace c k).s4 ∧
    (trace c k).s5 = rsum (trace c k).x4 (trace c k).y ∧
    out32 (trace c k) = hi32 (trace c k).s4 ∧
    out64 (trace c k) = xor64 (trace c k).s4 (zext64 (hi32 (trace c k).s5))) ∧
  trace 1 0x548C9DECBCE65297 =
    { y := 0x548C9DECBCE65297, z := 0xA9193BD979CCA52E, x0 := 0x548C9DECBCE65297,
      s1 := 0x170D32DB06DF67A8, x1 := 0x06DF67A8170D32DB, s2 := 0x68F5951B0824EC87, x2 := 0x0824EC8768F5951B,
      s3 := 0x9D1A1D23696CC370, x3 := 0x696CC3709D1A1D23, s4 := 0x944716E0563997F7, x4 := 0x563997F7944716E0,
      s5 := 0x5859485D6F319697 } ∧
  out32 (trace 1 0x548C9DECBCE65297) = 0x944716E0 ∧ out64 (trace 1 0x548C9DECBCE65297) = 0x944716E00E60DFAA

/-- R105: the output selector, and the narrow output's independence of round 5. -/
def Obligations.OutputSelectorForms : Prop :=
  (∀ t : Trace,
    outputSelector false t = zext64 (hi32 t.s4) ∧
    outputSelector true t = xor64 t.s4 (zext64 (hi32 t.s5)) ∧
    ∀ v : Word, outputSelector false { t with s5 := v } = outputSelector false t) ∧
  (∀ (op : OpField) (a b : Word) (s : State), op.getLsbD 2 = true →
    ∃ t, exec (decode op a b) s = .next t ∧
      t.responses = s.responses ++ [{
        w64 := op.getLsbD 0
        data := outputSelector (op.getLsbD 0)
          (trace (if op.getLsbD 1 then a else s.ctr) (if op.getLsbD 1 then b else s.key)) }])

/-- R106: `SQ32` is the rule's pseudocode, with its examples. -/
def Obligations.Squares32IsThePseudocode : Prop :=
  (∀ c k : Word,
    squares32 c k =
      (let y := mul64 c k
       let z := add64 y k
       let x1 := rot32 (add64 (sq64 y) y)
       let x2 := rot32 (add64 (sq64 x1) z)
       let x3 := rot32 (add64 (sq64 x2) y)
       let s4 := add64 (sq64 x3) z
       hi32 s4)) ∧
  squares32 0 0x548C9DECBCE65297 = 0x36D88366 ∧ squares32 1 0x548C9DECBCE65297 = 0x944716E0 ∧
  squares32 2 0x548C9DECBCE65297 = 0xC8A8F4E0 ∧ squares32 0xFFFFFFFFFFFFFFFF 0x548C9DECBCE65297 = 0x434506A4

/-- R107: `SQ64` is the rule's pseudocode, with its examples. -/
def Obligations.Squares64IsThePseudocode : Prop :=
  (∀ c k : Word,
    squares64 c k =
      (let y := mul64 c k
       let z := add64 y k
       let x1 := rot32 (add64 (sq64 y) y)
       let x2 := rot32 (add64 (sq64 x1) z)
       let x3 := rot32 (add64 (sq64 x2) y)
       let t := add64 (sq64 x3) z
       let x4 := rot32 t
       let s5 := add64 (sq64 x4) y
       xor64 t (zext64 (hi32 s5)))) ∧
  squares64 0 0x548C9DECBCE65297 = 0x36D88366CEE633A5 ∧ squares64 1 0x548C9DECBCE65297 = 0x944716E00E60DFAA ∧
  squares64 2 0x548C9DECBCE65297 = 0xC8A8F4E0678654BF ∧
  squares64 0xFFFFFFFFFFFFFFFF 0x548C9DECBCE65297 = 0x434506A445777020

/-- R109 (marked derived): the narrow output is the high half of the wide one, whose low half mixes rounds 4 and 5. -/
def Obligations.NarrowOutputIsTheHighHalfOfTheWide : Prop :=
  ∀ c k : Word,
    hi32 (squares64 c k) = squares32 c k ∧
    lo32 (squares64 c k) = lo32 (trace c k).s4 ^^^ hi32 (trace c k).s5

/-- R112 (marked derived): the degenerate inputs are legal and have these results. -/
def Obligations.DegenerateInputs : Prop :=
  (∀ c : Word, squares32 c 0 = 0 ∧ squares64 c 0 = 0) ∧
  (∀ k : Word, (trace 0 k).y = 0 ∧ (trace 0 k).z = k ∧ (trace 0 k).s1 = 0 ∧ (trace 0 k).x1 = 0 ∧ (trace 0 k).s2 = k) ∧
  (∀ c : Word, (trace c 1).y = c ∧ (trace c 1).z = add64 c 1) ∧
  squares64 0 1 = 1 ∧ squares64 1 1 = 2 ∧ squares32 0 1 = 0 ∧ squares32 1 1 = 0 ∧
  (trace 0xFFFFFFFFFFFFFFFF 0xFFFFFFFFFFFFFFFF).y = 1 ∧ (trace 0xFFFFFFFFFFFFFFFF 0xFFFFFFFFFFFFFFFF).z = 0 ∧
  squares32 0xFFFFFFFFFFFFFFFF 0xFFFFFFFFFFFFFFFF = 0 ∧ squares64 0xFFFFFFFFFFFFFFFF 0xFFFFFFFFFFFFFFFF = 0

/-- R113 and R182 (both marked derived): the sub-block schedule, from any latches, ends with the output selector's value, in
five multiplier passes for the narrow output and six for the wide one. -/
def Obligations.SubBlockScheduleComputesTheOutput : Prop :=
  (∀ (w64 : Bool) (c k : Word) (l : Latches),
    (runRows c k (schedule w64) l).out = outputSelector w64 (trace c k)) ∧
  multiplierPasses false = 5 ∧ multiplierPasses true = 6

/-- R110: the Weyl adder; the only thing a draw does to the counter, once per draw, its response being that of the old
counter; `n` draws add `n` increments. -/
def Obligations.WeylAdvancesTheCounterOncePerDraw : Prop :=
  (∀ v : Word, weyl v = add64 v weylInc) ∧ weylIncOk weylInc = true ∧
  (∀ (i : Instr) (s : State), i.isDraw = true → ∃ t, exec i s = .next t ∧ t.ctr = weyl s.ctr ∧
    t.responses = s.responses ++ [drawResponse i s.ctr s.key]) ∧
  (∀ (l : List Instr) (s : State), l.all Instr.isDraw = true →
    ∃ t, execAll l s = .next t ∧ t.ctr = s.ctr + BitVec.ofNat 64 l.length * weylInc) ∧
  add64 0 1 = 1 ∧ add64 0xFFFFFFFFFFFFFFFF 1 = 0 ∧
  add64 0 0x9E3779B97F4A7C15 = 0x9E3779B97F4A7C15 ∧
  add64 0xFFFFFFFFFFFFFFFF 0x9E3779B97F4A7C15 = 0x9E3779B97F4A7C14 ∧
  add64 0x8000000000000000 0x9E3779B97F4A7C15 = 0x1E3779B97F4A7C15

/-- R111 (marked derived), V70: the counter sequence in closed form, a bijection, of period exactly 2^64, through every
value. -/
def Obligations.WeylSequenceHasFullPeriod : Prop :=
  (∀ (n : Nat) (v : Word), weyl^[n] v = v + BitVec.ofNat 64 n * weylInc) ∧
  Function.Bijective weyl ∧
  (∀ (n : Nat) (v : Word), weyl^[n] v = v ↔ 2 ^ 64 ∣ n) ∧
  (∀ v u : Word, ∃ n, n < 2 ^ 64 ∧ weyl^[n] v = u)

/-! ## Construct commands (41_construct.md) -/

/-- R120: `NOP`, its encoding, its lack of any effect, alone, between two draws and against `cmd_valid = 0`. -/
def Obligations.NopDoesNothing : Prop :=
  ∀ (a b : Word) (s : State),
    decode 0b000 a b = .nop ∧ exec .nop s = .next s ∧
    (∀ d e : Instr, d.isDraw = true → e.isDraw = true → execAll [d, .nop, e] s = execAll [d, e] s) ∧
    (∀ rest : List HostPorts,
      step { s with host := { rst := false, cmdValid := true, cmdOp := 0b000, cmdA := a, cmdB := b } :: rest } =
      step { s with host := { rst := false, cmdValid := false, cmdOp := 0b000, cmdA := a, cmdB := b } :: rest })

/-- R121: `LDCTR a` writes the counter and marks it loaded; nothing else changes. -/
def Obligations.LdctrLoadsTheCounter : Prop :=
  ∀ (a b : Word) (s : State),
    decode 0b001 a b = .ldctr a ∧
    exec (.ldctr a) s = .next { s with ctr := a, loaded := true } ∧
    exec (.ldctr s.ctr) s = .next { s with loaded := true } ∧
    (∀ d : Instr, d.isDraw = true →
      ∃ t, execAll [.ldctr 0xFFFFFFFFFFFFFFFF, d] s = .next t ∧ t.ctr = weylInc - 1)

/-- R122: `LDKEY b` writes the key and nothing else; with `b = 0` every later draw responds 0, whatever commands stand before
it, as long as none of them loads the key. -/
def Obligations.LdkeyLoadsTheKey : Prop :=
  ∀ (a b : Word) (s : State),
    decode 0b010 a b = .ldkey b ∧
    exec (.ldkey b) s = .next { s with key := b } ∧
    (∀ (l m : List Instr) (d : Instr), l.any Instr.loadsKey = false → d.isDraw = true →
      ∃ u v r, execAll (.ldkey 0 :: l) s = .next u ∧ exec d u = .next v ∧
        v.responses = u.responses ++ [r] ∧ r.data = 0 ∧
        execAll (.ldkey 0 :: l ++ d :: m) s = execAll m v)

/-- 41_construct.md (R123; its sentence on the two loads in either order is marked derived): `INIT a, b` writes both registers
in one step, as `LDCTR a` and `LDKEY b` do in either order. -/
def Obligations.InitLoadsBoth : Prop :=
  ∀ (a b : Word) (s : State),
    decode 0b011 a b = .init a b ∧
    exec (.init a b) s = .next { s with ctr := a, key := b, loaded := true } ∧
    execAll [.ldctr a, .ldkey b] s = exec (.init a b) s ∧
    execAll [.ldkey b, .ldctr a] s = exec (.init a b) s

/-- R124: no command unloads the counter; a step that does is a reset. -/
def Obligations.OnlyResetUnloadsTheCounter : Prop :=
  (∀ (i : Instr) (s t : State), s.loaded = true → exec i s = .next t → t.loaded = true) ∧
  (∀ s t : State, s.loaded = true → step s = .next t → t.loaded = false →
    ∃ p rest, s.host = p :: rest ∧ p.rst = true)

/-- R171: when the counter counts as loaded, and that no command's effect on anything else depends on the mark. -/
def Obligations.LoadedMarkIsAGhost : Prop :=
  State.reset.loaded = false ∧
  (∀ (s : State) (p : HostPorts) (rest : List HostPorts), s.host = p :: rest → p.rst = true →
    ∃ t, step s = .next t ∧ t.loaded = false) ∧
  (∀ (i : Instr) (s : State), ∃ t, exec i s = .next t ∧ t.loaded = (s.loaded || i.loadsCtr)) ∧
  (∀ (i : Instr) (s : State) (m : Bool),
    ∃ t, exec i s = .next t ∧ exec i { s with loaded := m } = .next { t with loaded := m || i.loadsCtr })

/-! ## Generate commands (42_pure.md, 43_instance.md) -/

/-- R130: `RAND32 a, b` responds `SQ32(a, b)` in 32 bits and touches no other state. -/
def Obligations.Rand32Responds : Prop :=
  (∀ (a b : Word) (s : State),
    decode 0b110 a b = .rand32 a b ∧
    exec (.rand32 a b) s = .next { s with
      responses := s.responses ++ [{ w64 := false, data := (squares32 a b).setWidth 64 }] } ∧
    squares32 a 0 = 0 ∧
    squares32 a b = hi32 (squares64 a b) ∧
    execAll [.rand32 a b, .rand32 a b] s = .next { s with
      responses := s.responses ++ [{ w64 := false, data := (squares32 a b).setWidth 64 },
        { w64 := false, data := (squares32 a b).setWidth 64 }] }) ∧
  (squares32 1 0x548C9DECBCE65297).setWidth 64 = 0x00000000944716E0#64

/-- R131: `RAND64 a, b` responds `SQ64(a, b)` in 64 bits and touches no other state. -/
def Obligations.Rand64Responds : Prop :=
  (∀ (a b : Word) (s : State),
    decode 0b111 a b = .rand64 a b ∧
    exec (.rand64 a b) s = .next { s with
      responses := s.responses ++ [{ w64 := true, data := squares64 a b }] } ∧
    squares64 a 0 = 0 ∧
    hi32 (squares64 a b) = squares32 a b) ∧
  squares64 0 0x548C9DECBCE65297 = 0x36D88366CEE633A5 ∧ squares64 1 0x548C9DECBCE65297 = 0x944716E00E60DFAA

/-- 43_instance.md (R140): `NEXT32` responds from the old counter, advances the counter once, keeps the key. That it does so
from a counter that is not loaded as well is the model's choice between the two treatments of R175, log entry 11. -/
def Obligations.Next32DrawsAndAdvances : Prop :=
  (∀ (a b : Word) (s : State),
    decode 0b100 a b = .next32 ∧
    exec .next32 s = .next { s with
      ctr := weyl s.ctr
      responses := s.responses ++ [{ w64 := false, data := (squares32 s.ctr s.key).setWidth 64 }] } ∧
    (∃ t u, exec .next32 s = .next t ∧ exec .next64 s = .next u ∧ t.ctr = u.ctr) ∧
    (s.key = 0 → exec .next32 s = .next { s with
      ctr := weyl s.ctr
      responses := s.responses ++ [{ w64 := false, data := 0 }] })) ∧
  (∀ v : Word, weyl v = add64 v weylInc) ∧ add64 0xFFFFFFFFFFFFFFFF 1 = 0 ∧ add64 0 1 = 1 ∧
  squares32 0 0x548C9DECBCE65297 = 0x36D88366

/-- 43_instance.md (R141): `NEXT64` likewise with `SQ64`; its high half is what `NEXT32` would have returned. That it does so
from a counter that is not loaded as well is the model's choice between the two treatments of R175, log entry 11. -/
def Obligations.Next64DrawsAndAdvances : Prop :=
  (∀ (a b : Word) (s : State),
    decode 0b101 a b = .next64 ∧
    exec .next64 s = .next { s with
      ctr := weyl s.ctr
      responses := s.responses ++ [{ w64 := true, data := squares64 s.ctr s.key }] } ∧
    hi32 (squares64 s.ctr s.key) = squares32 s.ctr s.key ∧
    (s.key = 0 → exec .next64 s = .next { s with
      ctr := weyl s.ctr
      responses := s.responses ++ [{ w64 := true, data := 0 }] })) ∧
  (∀ v : Word, weyl v = add64 v weylInc) ∧ add64 1 1 = 2 ∧
  squares64 1 0x548C9DECBCE65297 = 0x944716E00E60DFAA

/-- R132 (marked derived): a draw is the pure command on (`CTR`, `KEY`) and then the advance; the stream after `INIT c0, k`
is `SQ32` or `SQ64` of `c0 + i * WEYL_INC` and `k`. The rule speaks of a loaded counter; that the first two clauses hold
of one that is not loaded as well is the model's choice between the two treatments of R175, log entry 11. -/
def Obligations.DrawsFollowThePureFunctions : Prop :=
  (∀ s t : State, exec (.rand32 s.ctr s.key) s = .next t → exec .next32 s = .next { t with ctr := weyl s.ctr }) ∧
  (∀ s t : State, exec (.rand64 s.ctr s.key) s = .next t → exec .next64 s = .next { t with ctr := weyl s.ctr }) ∧
  (∀ (c0 k : Word) (l : List Instr) (s : State), l.all Instr.isDraw = true →
    execAll (.init c0 k :: l) s = .next { s with
      ctr := counterAt c0 l.length
      key := k
      loaded := true
      responses := s.responses ++ l.mapIdx (fun i d => drawResponse d (counterAt c0 i) k) })

/-- R142: the counter after any sequence with `n` draws and no load of the counter; each draw's own counter value; a load
restarts the count. The numbers are the rule's examples. -/
def Obligations.CounterAfterAnySequence : Prop :=
  (∀ (l : List Instr) (s : State), l.any Instr.loadsCtr = false →
    ∃ t, execAll l s = .next t ∧ t.ctr = s.ctr + BitVec.ofNat 64 (drawCount l) * weylInc) ∧
  (∀ (l m : List Instr) (d : Instr) (s : State), l.any Instr.loadsCtr = false → d.isDraw = true →
    ∃ u v, execAll l s = .next u ∧ exec d u = .next v ∧
      u.ctr = s.ctr + BitVec.ofNat 64 (drawCount l) * weylInc ∧
      v.responses = u.responses ++ [drawResponse d (s.ctr + BitVec.ofNat 64 (drawCount l) * weylInc) u.key] ∧
      execAll (l ++ d :: m) s = execAll m v) ∧
  (∀ (l m : List Instr) (c k : Word) (s : State), m.any Instr.loadsCtr = false →
    (∃ t, execAll (l ++ .ldctr c :: m) s = .next t ∧ t.ctr = c + BitVec.ofNat 64 (drawCount m) * weylInc) ∧
    (∃ t, execAll (l ++ .init c k :: m) s = .next t ∧ t.ctr = c + BitVec.ofNat 64 (drawCount m) * weylInc)) ∧
  (0 + BitVec.ofNat 64 3 * 1 : Word) = 3 ∧
  (0 + BitVec.ofNat 64 3 * 0x9E3779B97F4A7C15 : Word) = 0xDAA66D2C7DDF743F ∧
  (0 + BitVec.ofNat 64 1048576 * 1 : Word) = 0x0000000000100000 ∧
  (0 + BitVec.ofNat 64 1048576 * 0x9E3779B97F4A7C15 : Word) = 0x9B97F4A7C1500000

/-- R143 (marked derived): loading the sampled counter and drawing again gives the same series of responses. -/
def Obligations.ReplayFromASnapshot : Prop :=
  ∀ (l : List Instr) (s : State), l.all Instr.isDraw = true →
    ∃ t u rs, execAll l s = .next t ∧ execAll (.ldctr s.ctrQ :: l) t = .next u ∧
      t.responses = s.responses ++ rs ∧ rs.length = l.length ∧
      u.responses = t.responses ++ rs ∧ u.ctr = t.ctr ∧ u.key = t.key

/-! ## Order (20_memory.md) -/

/-- R45: loads are idempotent, pure commands and `NOP` repeat, a draw moves the counter, and two draws of one kind can
respond differently. -/
def Obligations.SideEffectsAndRepetition : Prop :=
  ∀ (a b : Word) (s : State),
    execAll [.ldctr a, .ldctr a] s = exec (.ldctr a) s ∧
    execAll [.ldkey b, .ldkey b] s = exec (.ldkey b) s ∧
    execAll [.init a b, .init a b] s = exec (.init a b) s ∧
    execAll [.nop, .nop] s = exec .nop s ∧
    (∀ i : Instr, i.isPure = true → ∃ r, ∀ u : State, exec i u = .next { u with responses := u.responses ++ [r] }) ∧
    (∀ d : Instr, d.isDraw = true → ∃ t, exec d s = .next t ∧ t.ctr ≠ s.ctr) ∧
    (∀ d : Instr, d.isDraw = true →
      ∃ (u t : State) (r q : Response), execAll [d, d] u = .next t ∧ t.responses = u.responses ++ [r, q] ∧ r ≠ q)

/-- R48: a run over command words accepted one after another is the fold of the single commands' transitions, each from the
state all before it left. -/
def Obligations.RunIsTheFoldOfItsCommands : Prop :=
  (∀ (ws : List CommandWord) (rest : List HostPorts) (s : State),
    core.run ws.length { s with host := ws.map presentWord ++ rest } =
      execAll (ws.map decodeWord) { s with host := rest }) ∧
  (∀ (l m : List Instr) (s : State), ∃ t, execAll l s = .next t ∧ execAll (l ++ m) s = execAll m t)

/-- R49: one response per generate command, none for the others; the n-th response since reset is the n-th generate
command's. -/
def Obligations.ResponsesFollowTheGenerateCommands : Prop :=
  (∀ (i : Instr) (s : State), ∃ t rs, exec i s = .next t ∧ t.responses = s.responses ++ rs ∧
    rs.length = if i.isGenerate then 1 else 0) ∧
  (∀ (l m : List Instr) (g : Instr) (s : State), g.isGenerate = true → s.responses = [] →
    ∃ u v t r, execAll l s = .next u ∧ exec g u = .next v ∧ v.responses = u.responses ++ [r] ∧
      execAll (l ++ g :: m) s = .next t ∧ t.responses[generateCount l]? = some r ∧
      t.responses.length = generateCount (l ++ g :: m))

/-- R50: whatever order an arbiter lets two requesters' draws through in, no draw is lost, the counter ends at the start plus
the number of draws, each response is that of its place in the order, and two draws fewer than 2^64 apart use different
counter values. Either requester may come first. -/
def Obligations.RequestersInterleaveWholeDraws : Prop :=
  (∀ (xs ys zs : List Instr) (s : State), xs.all Instr.isDraw = true → ys.all Instr.isDraw = true →
    Interleaving xs ys zs →
    execAll zs s = .next { s with
      ctr := counterAt s.ctr (xs.length + ys.length)
      responses := s.responses ++ zs.mapIdx (fun i d => drawResponse d (counterAt s.ctr i) s.key) }) ∧
  (∀ (c : Word) (i j : Nat), i < j → j - i < 2 ^ 64 → counterAt c i ≠ counterAt c j) ∧
  (∀ xs ys : List Instr, Interleaving xs ys (xs ++ ys) ∧ Interleaving xs ys (ys ++ xs))

/-- R55: a pure command put anywhere in a sequence changes no other response and not the end state, and its own response
does not depend on the place. -/
def Obligations.PureCommandsCommuteWithEverything : Prop :=
  ∀ g : Instr, g.isPure = true → ∃ r : Response, ∀ (l m : List Instr) (s : State),
    ∃ (t : State) (rs qs : List Response),
      execAll (l ++ m) s = .next { t with responses := s.responses ++ rs ++ qs } ∧
      execAll (l ++ g :: m) s = .next { t with responses := s.responses ++ rs ++ [r] ++ qs } ∧
      rs.length = generateCount l ∧ qs.length = generateCount m

/-! ## State, ports and the step (10_state.md, 30_encoding.md) -/

/-- R21: what writes `CTR`, what does not read it, and where it is read. -/
def Obligations.CounterIsWrittenAndReadAsListed : Prop :=
  (∀ (a b : Word) (s : State),
    (∃ t, exec (.ldctr a) s = .next t ∧ t.ctr = a) ∧
    (∃ t, exec (.init a b) s = .next t ∧ t.ctr = a) ∧
    (∃ t, exec .next32 s = .next t ∧ t.ctr = weyl s.ctr ∧
      t.responses = s.responses ++ [narrowResponse s.ctr s.key]) ∧
    (∃ t, exec .next64 s = .next t ∧ t.ctr = weyl s.ctr ∧
      t.responses = s.responses ++ [wideResponse s.ctr s.key]) ∧
    s.ctrQ = s.ctr) ∧
  (∀ (i : Instr) (s : State) (c : Word), i.isDraw = false → i.loadsCtr = false →
    ∃ t, exec i s = .next t ∧ t.ctr = s.ctr ∧ exec i { s with ctr := c } = .next { t with ctr := c })

/-- R22: what writes `KEY`, what does not read it, and where it is read. -/
def Obligations.KeyIsWrittenAndReadAsListed : Prop :=
  (∀ (a b : Word) (s : State),
    (∃ t, exec (.ldkey b) s = .next t ∧ t.key = b) ∧
    (∃ t, exec (.init a b) s = .next t ∧ t.key = b) ∧
    (∃ t, exec .next32 s = .next t ∧ t.key = s.key ∧
      t.responses = s.responses ++ [narrowResponse s.ctr s.key]) ∧
    (∃ t, exec .next64 s = .next t ∧ t.key = s.key ∧
      t.responses = s.responses ++ [wideResponse s.ctr s.key]) ∧
    s.keyQ = s.key) ∧
  (∀ (s : State) (p : HostPorts) (rest : List HostPorts), s.host = p :: rest → p.rst = true →
    ∃ t, step s = .next t ∧ t.key = defaultKey) ∧
  (∀ (i : Instr) (s : State) (k : Word), i.isDraw = false → i.loadsKey = false →
    ∃ t, exec i s = .next t ∧ t.key = s.key ∧ exec i { s with key := k } = .next { t with key := k })

/-- R23: over any run in which the host asserts no reset and loads no key, the key does not change. -/
def Obligations.KeyIsConstantBetweenLoads : Prop :=
  ∀ (n : Nat) (s : State), noReset (s.host.take n) = true → noKeyLoad (s.host.take n) = true →
    ∃ t, core.run n s = .next t ∧ t.key = s.key

/-- R31: two states that agree on `CTR` and `KEY` give the same responses to the same commands and end agreeing again,
whatever went before. -/
def Obligations.NoHiddenState : Prop :=
  ∀ (l : List Instr) (s u : State), s.ctr = u.ctr → s.key = u.key →
    ∃ s' u' rs, execAll l s = .next s' ∧ execAll l u = .next u' ∧
      s'.responses = s.responses ++ rs ∧ u'.responses = u.responses ++ rs ∧
      s'.ctr = u'.ctr ∧ s'.key = u'.key

/-- 30_encoding.md section 1 (R63): a command is accepted with both signals 1, and while the host holds `cmd_valid = 0`, for
any time, the state does not change. That `cmd_ready` is 1 at every state is the model's (every state is an idle point, log
entry 10); so is that an empty list of samples is a host that drives nothing (log entry 4). -/
def Obligations.IdleHostChangesNothing : Prop :=
  (∀ (p : HostPorts) (s : State), s.cmdReady = true ∧ (accepts p s = true ↔ p.cmdValid = true ∧ s.cmdReady = true)) ∧
  (∀ (ps rest : List HostPorts) (s : State), (∀ p ∈ ps, p.rst = false ∧ p.cmdValid = false) →
    core.run ps.length { s with host := ps ++ rest } = .next { s with host := rest }) ∧
  (∀ (n : Nat) (s : State), s.host = [] → core.run n s = .next s)

/-- R64: the two response forms, and what the response port signals: one response of the command's width for a generate command,
none for the others. -/
def Obligations.ResponsesHaveTheirForm : Prop :=
  (∀ (v : HalfWord) (s : State),
    s.respond32 v = { s with responses := s.responses ++ [{ w64 := false, data := v.setWidth 64 }] } ∧
    lo32 (v.setWidth 64) = v ∧ hi32 (v.setWidth 64) = 0) ∧
  (∀ (v : Word) (s : State),
    s.respond64 v = { s with responses := s.responses ++ [{ w64 := true, data := v }] }) ∧
  (∀ (i : Instr) (s : State), i.isGenerate = false →
    ∃ t, exec i s = .next t ∧ t.responses = s.responses ∧ responsePort s t = none) ∧
  (∀ (i : Instr) (s : State), i.isGenerate = true →
    ∃ t r, exec i s = .next t ∧ t.responses = s.responses ++ [r] ∧ responsePort s t = some r ∧
      r.w64 = (opcode i).getLsbD 0 ∧ (r.w64 = false → hi32 r.data = 0))

/-- R61, R63: a step with an accepted command is exec of the command the triple decodes to, once the sample is taken. -/
def Obligations.StepRunsTheDecodedCommand : Prop :=
  ∀ (s : State) (p : HostPorts) (rest : List HostPorts) (i : Instr),
    s.host = p :: rest → p.rst = false → p.cmdValid = true → decode p.cmdOp p.cmdA p.cmdB = i →
    step s = exec i { s with host := rest }

/-! ## Reset, faults and hazards (60_exceptions.md, 70_reset_and_hazards.md) -/

/-- R33 and R34: after reset the key is the default key, the block is idle, and no response is there or comes before a
generate command is accepted. -/
def Obligations.ResetStateHoldsTheDefaultKey : Prop :=
  State.reset.key = defaultKey ∧ State.reset.responses = [] ∧ State.reset.cmdReady = true ∧
  (∀ l : List Instr, l.any Instr.isGenerate = false →
    ∃ t, execAll l State.reset = .next t ∧ t.responses = []) ∧
  (∀ n : Nat, core.run n State.reset = .next State.reset)

/-- R170 and R172: the power-up state, and from every state a reset, gives the default key, an unloaded counter and no response, whatever was
loaded before. The value of the counter is free and nothing is said of it. -/
def Obligations.ResetEventFromAnyState : Prop :=
  (State.reset.key = defaultKey ∧ State.reset.loaded = false ∧ State.reset.responses = []) ∧
  (∀ (s : State) (p : HostPorts) (rest : List HostPorts), s.host = p :: rest → p.rst = true →
    ∃ t, step s = .next t ∧ t.key = defaultKey ∧ t.loaded = false ∧ t.responses = [] ∧ t.host = rest ∧
      t.cmdReady = true)

/-- 70_reset_and_hazards.md section 1 (R173) and 60_exceptions.md section 1 (R153, marked derived): a command that coincides
with reset is abandoned: the state after is the reset state the bare reset gives. That a command in the sample of the reset
stands for every command in flight at a reset is the model's choice, log entry 8; so is that the two runs find the same free
counter after the reset, log entry 22. -/
def Obligations.ResetWinsOverACommand : Prop :=
  ∀ (s : State) (op : OpField) (a b : Word) (rest : List HostPorts),
    ∃ t, step { s with host := { rst := true, cmdValid := true, cmdOp := op, cmdA := a, cmdB := b } :: rest } = .next t ∧
      step { s with host := portsReset :: rest } = .next t ∧ t.responses = []

/-- R150: no command raises anything, in any state, and no run stops. -/
def Obligations.NothingEverFaults : Prop :=
  (∀ (i : Instr) (s : State), ∃ t, exec i s = .next t) ∧
  (∀ (n : Nat) (s : State), ∃ t, core.run n s = .next t)

/-- 70_reset_and_hazards.md section 2 (R175, decision D10; the model takes its second treatment, log entries 1 and 11): a draw
from a counter that is not loaded runs like any other, from whatever the counter holds, and leaves it not loaded. -/
def Obligations.UnloadedDrawRunsFromWhateverIsHeld : Prop :=
  ∀ s : State, s.loaded = false →
    (∃ t, exec .next32 s = .next t ∧ t.loaded = false ∧ t.ctr = weyl s.ctr ∧
      t.responses = s.responses ++ [narrowResponse s.ctr s.key]) ∧
    (∃ t, exec .next64 s = .next t ∧ t.loaded = false ∧ t.ctr = weyl s.ctr ∧
      t.responses = s.responses ++ [wideResponse s.ctr s.key])

/-- 70_reset_and_hazards.md section 2 (R174): if the host loads the counter before the first draw, nothing it is answered
depends on what the counter held. -/
def Obligations.LoadingFirstHidesThePowerUpCounter : Prop :=
  ∀ (l : List Instr) (s u : State), loadsBeforeDraws false l = true → s.key = u.key →
    ∃ s' u' rs, execAll l s = .next s' ∧ execAll l u = .next u' ∧
      s'.responses = s.responses ++ rs ∧ u'.responses = u.responses ++ rs ∧ s'.key = u'.key ∧
      (l.any Instr.loadsCtr = true → s'.ctr = u'.ctr)

/-- 30_encoding.md section 1: every step keeps the invariant that a narrow response has zeros in bits 63:32. -/
def Obligations.StepKeepsNarrowResponsesNarrow : Prop :=
  ∀ s t : State, ResponsesInv s → step s = .next t → ResponsesInv t

/-- The invariant holds at reset. -/
def Obligations.ResetHasNarrowResponsesNarrow : Prop := ResponsesInv State.reset

/-- R24 and R162: blocks share nothing. A step of one block is that block's own step, from its own state alone, and leaves
every other as it was; steps of two blocks commute. After power-up and after any step every block draws its free counter from
its own place. The form of a system and the numbering of its blocks are the model's, log entries 15 and 20; so are that all blocks have one configuration, log entry 21,
and that a block reset in either of the two orders finds the same free counter, log entry 22. -/
def Obligations.BlocksAreIndependent : Prop :=
  (∀ (y : System) (n : Nat), ∃ z, y.stepBlock n = .next z ∧ z.blocks.length = y.blocks.length ∧
    ∀ m, m ≠ n → z.blocks[m]? = y.blocks[m]?) ∧
  (∀ (y : System) (n : Nat) (s t : State), y.blocks[n]? = some s → step s = .next t →
    ∃ z, y.stepBlock n = .next z ∧ z.blocks[n]? = some t) ∧
  (∀ (y : System) (n : Nat), y.blocks[n]? = none → y.stepBlock n = .next y) ∧
  (∀ k n : Nat, (System.powerUp k).Numbered ∧
    (System.powerUp k).blocks[n]? = if n < k then some (State.powerUp n) else none) ∧
  (∀ (y z : System) (n : Nat), y.Numbered → y.stepBlock n = .next z → z.Numbered) ∧
  (∀ (y a b c d : System) (m n : Nat), m ≠ n →
    y.stepBlock m = .next a → a.stepBlock n = .next b →
    y.stepBlock n = .next c → c.stepBlock m = .next d → b = d)
end

