-- ==== Sys2Proof/Laws/Datapath.lean ====
section
/-! SUPPORT. The halves of a value, the arithmetic as arithmetic of Mathlib's, the Weyl increment's oddness. -/

namespace Sys2Proof.Laws

open Sys2Proof.Machine

theorem hi32_toNat (v : Word) : (hi32 v).toNat = v.toNat / 2 ^ 32 := by
  simp only [hi32, BitVec.extractLsb'_toNat, Nat.shiftRight_eq_div_pow]; omega

theorem lo32_toNat (v : Word) : (lo32 v).toNat = v.toNat % 2 ^ 32 := by
  simp [lo32, BitVec.extractLsb'_toNat]

/-- Joining two halves, as integers (R12). -/
theorem append_toNat (h l : HalfWord) : (h ++ l : Word).toNat = h.toNat * 2 ^ 32 + l.toNat := by
  refine (BitVec.toNat_append h l).trans ?_
  rw [← Nat.shiftLeft_add_eq_or_of_lt l.isLt, Nat.shiftLeft_eq]

@[simp] theorem hi32_append (h l : HalfWord) : hi32 (h ++ l) = h := by
  apply BitVec.eq_of_toNat_eq
  have hl := l.isLt
  rw [hi32_toNat, append_toNat]
  omega

@[simp] theorem lo32_append (h l : HalfWord) : lo32 (h ++ l) = l := by
  apply BitVec.eq_of_toNat_eq
  have hl := l.isLt
  rw [lo32_toNat, append_toNat]
  omega

/-- A value is its two halves. -/
theorem append_halves (v : Word) : hi32 v ++ lo32 v = v := by
  apply BitVec.eq_of_toNat_eq
  rw [append_toNat, hi32_toNat, lo32_toNat]
  omega

/-- Two values with the same halves are the same. -/
theorem eq_of_halves {u v : Word} (hh : hi32 u = hi32 v) (hl : lo32 u = lo32 v) : u = v := by
  rw [← append_halves u, ← append_halves v, hh, hl]

@[simp] theorem hi32_xor64 (p q : Word) : hi32 (xor64 p q) = hi32 p ^^^ hi32 q := by
  simp only [hi32, xor64]; ext i hi; simp [BitVec.getElem_extractLsb']

@[simp] theorem lo32_xor64 (p q : Word) : lo32 (xor64 p q) = lo32 p ^^^ lo32 q := by
  simp only [lo32, xor64]; ext i hi; simp [BitVec.getElem_extractLsb']

@[simp] theorem hi32_zext64 (h : HalfWord) : hi32 (zext64 h) = 0 := by
  apply BitVec.eq_of_toNat_eq
  rw [hi32_toNat]
  have := h.isLt
  simp [zext64]
  omega

@[simp] theorem lo32_zext64 (h : HalfWord) : lo32 (zext64 h) = h := by
  apply BitVec.eq_of_toNat_eq
  rw [lo32_toNat]
  have hh := h.isLt
  simp only [zext64, BitVec.toNat_setWidth]
  omega

/-- The Weyl increment is odd (R7), whatever its open bits. -/
theorem weylInc_odd : weylInc.toNat % 2 = 1 := by
  simp only [weylInc, BitVec.toNat_append]
  rw [Nat.shiftLeft_eq, ← Nat.shiftLeft_eq, ← Nat.shiftLeft_add_eq_or_of_lt (by decide)]
  simp [Nat.shiftLeft_eq]

end Sys2Proof.Laws
end

