-- ==== Sys2Proof/Laws/Decode.lean ====
section
/-! SUPPORT. The fields of a command word and the word of three fields undo each other. -/

namespace Sys2Proof.Laws

/-- A packed word as an integer (R66, R12). -/
theorem packWord_toNat (op : OpField) (a b : Word) :
    (packWord op a b).toNat = (op.toNat * 2 ^ 64 + a.toNat) * 2 ^ 64 + b.toNat := by
  refine (BitVec.toNat_append (op ++ a) b).trans ?_
  rw [BitVec.toNat_append op a, ← Nat.shiftLeft_add_eq_or_of_lt a.isLt, ← Nat.shiftLeft_add_eq_or_of_lt b.isLt,
    Nat.shiftLeft_eq, Nat.shiftLeft_eq]

theorem opField_toNat (w : CommandWord) : (opField w).toNat = w.toNat / 2 ^ 128 := by
  simp only [opField, BitVec.extractLsb'_toNat, Nat.shiftRight_eq_div_pow]; omega

theorem aField_toNat (w : CommandWord) : (aField w).toNat = w.toNat / 2 ^ 64 % 2 ^ 64 := by
  simp only [aField, BitVec.extractLsb'_toNat, Nat.shiftRight_eq_div_pow]

theorem bField_toNat (w : CommandWord) : (bField w).toNat = w.toNat % 2 ^ 64 := by
  simp [bField, BitVec.extractLsb'_toNat]

@[simp] theorem opField_packWord (op : OpField) (a b : Word) : opField (packWord op a b) = op := by
  apply BitVec.eq_of_toNat_eq
  rw [opField_toNat, packWord_toNat]
  omega

@[simp] theorem aField_packWord (op : OpField) (a b : Word) : aField (packWord op a b) = a := by
  apply BitVec.eq_of_toNat_eq
  rw [aField_toNat, packWord_toNat]
  omega

@[simp] theorem bField_packWord (op : OpField) (a b : Word) : bField (packWord op a b) = b := by
  apply BitVec.eq_of_toNat_eq
  rw [bField_toNat, packWord_toNat]
  omega

/-- A word is the word of its fields. -/
theorem packWord_fields (w : CommandWord) : packWord (opField w) (aField w) (bField w) = w := by
  apply BitVec.eq_of_toNat_eq
  rw [packWord_toNat, opField_toNat, aField_toNat, bField_toNat]
  omega

/-- There are eight values of `op`. -/
theorem opField_eight (op : OpField) :
    op = 0b000 ∨ op = 0b001 ∨ op = 0b010 ∨ op = 0b011 ∨ op = 0b100 ∨ op = 0b101 ∨ op = 0b110 ∨ op = 0b111 := by
  revert op; decide

end Sys2Proof.Laws
end

