-- ==== Sys2Proof/Laws/State.lean ====
section
/-! SUPPORT. Every field after every update of the state. -/

namespace Sys2Proof.Machine

@[simp] theorem State.loadCtr_ctr (a : Word) (s : State) : (s.loadCtr a).ctr = a := rfl
@[simp] theorem State.loadCtr_key (a : Word) (s : State) : (s.loadCtr a).key = s.key := rfl
@[simp] theorem State.loadCtr_loaded (a : Word) (s : State) : (s.loadCtr a).loaded = true := rfl
@[simp] theorem State.loadCtr_responses (a : Word) (s : State) : (s.loadCtr a).responses = s.responses := rfl
@[simp] theorem State.loadCtr_host (a : Word) (s : State) : (s.loadCtr a).host = s.host := rfl
@[simp] theorem State.loadCtr_resets (a : Word) (s : State) : (s.loadCtr a).resets = s.resets := rfl
@[simp] theorem State.loadCtr_block (a : Word) (s : State) : (s.loadCtr a).block = s.block := rfl

@[simp] theorem State.loadKey_ctr (b : Word) (s : State) : (s.loadKey b).ctr = s.ctr := rfl
@[simp] theorem State.loadKey_key (b : Word) (s : State) : (s.loadKey b).key = b := rfl
@[simp] theorem State.loadKey_loaded (b : Word) (s : State) : (s.loadKey b).loaded = s.loaded := rfl
@[simp] theorem State.loadKey_responses (b : Word) (s : State) : (s.loadKey b).responses = s.responses := rfl
@[simp] theorem State.loadKey_host (b : Word) (s : State) : (s.loadKey b).host = s.host := rfl
@[simp] theorem State.loadKey_resets (b : Word) (s : State) : (s.loadKey b).resets = s.resets := rfl
@[simp] theorem State.loadKey_block (b : Word) (s : State) : (s.loadKey b).block = s.block := rfl

@[simp] theorem State.advance_ctr (s : State) : (s.advance).ctr = weyl s.ctr := rfl
@[simp] theorem State.advance_key (s : State) : (s.advance).key = s.key := rfl
@[simp] theorem State.advance_loaded (s : State) : (s.advance).loaded = s.loaded := rfl
@[simp] theorem State.advance_responses (s : State) : (s.advance).responses = s.responses := rfl
@[simp] theorem State.advance_host (s : State) : (s.advance).host = s.host := rfl
@[simp] theorem State.advance_resets (s : State) : (s.advance).resets = s.resets := rfl
@[simp] theorem State.advance_block (s : State) : (s.advance).block = s.block := rfl

@[simp] theorem State.emit_ctr (r : Response) (s : State) : (s.emit r).ctr = s.ctr := rfl
@[simp] theorem State.emit_key (r : Response) (s : State) : (s.emit r).key = s.key := rfl
@[simp] theorem State.emit_loaded (r : Response) (s : State) : (s.emit r).loaded = s.loaded := rfl
@[simp] theorem State.emit_responses (r : Response) (s : State) : (s.emit r).responses = s.responses ++ [r] := rfl
@[simp] theorem State.emit_host (r : Response) (s : State) : (s.emit r).host = s.host := rfl
@[simp] theorem State.emit_resets (r : Response) (s : State) : (s.emit r).resets = s.resets := rfl
@[simp] theorem State.emit_block (r : Response) (s : State) : (s.emit r).block = s.block := rfl

@[simp] theorem State.respond32_ctr (v : HalfWord) (s : State) : (s.respond32 v).ctr = s.ctr := rfl
@[simp] theorem State.respond32_key (v : HalfWord) (s : State) : (s.respond32 v).key = s.key := rfl
@[simp] theorem State.respond32_loaded (v : HalfWord) (s : State) : (s.respond32 v).loaded = s.loaded := rfl
@[simp] theorem State.respond32_responses (v : HalfWord) (s : State) : (s.respond32 v).responses = s.responses ++ [{ w64 := false, data := zext64 v }] := rfl
@[simp] theorem State.respond32_host (v : HalfWord) (s : State) : (s.respond32 v).host = s.host := rfl
@[simp] theorem State.respond32_resets (v : HalfWord) (s : State) : (s.respond32 v).resets = s.resets := rfl
@[simp] theorem State.respond32_block (v : HalfWord) (s : State) : (s.respond32 v).block = s.block := rfl

@[simp] theorem State.respond64_ctr (v : Word) (s : State) : (s.respond64 v).ctr = s.ctr := rfl
@[simp] theorem State.respond64_key (v : Word) (s : State) : (s.respond64 v).key = s.key := rfl
@[simp] theorem State.respond64_loaded (v : Word) (s : State) : (s.respond64 v).loaded = s.loaded := rfl
@[simp] theorem State.respond64_responses (v : Word) (s : State) : (s.respond64 v).responses = s.responses ++ [{ w64 := true, data := v }] := rfl
@[simp] theorem State.respond64_host (v : Word) (s : State) : (s.respond64 v).host = s.host := rfl
@[simp] theorem State.respond64_resets (v : Word) (s : State) : (s.respond64 v).resets = s.resets := rfl
@[simp] theorem State.respond64_block (v : Word) (s : State) : (s.respond64 v).block = s.block := rfl

@[simp] theorem State.applyReset_ctr (s : State) : (s.applyReset).ctr = powerUpCtr s.block (s.resets + 1) := rfl
@[simp] theorem State.applyReset_key (s : State) : (s.applyReset).key = defaultKey := rfl
@[simp] theorem State.applyReset_loaded (s : State) : (s.applyReset).loaded = false := rfl
@[simp] theorem State.applyReset_responses (s : State) : (s.applyReset).responses = [] := rfl
@[simp] theorem State.applyReset_host (s : State) : (s.applyReset).host = s.host := rfl
@[simp] theorem State.applyReset_resets (s : State) : (s.applyReset).resets = s.resets + 1 := rfl
@[simp] theorem State.applyReset_block (s : State) : (s.applyReset).block = s.block := rfl

@[simp] theorem State.powerUp_ctr (b : Nat) : (State.powerUp b).ctr = powerUpCtr b 0 := rfl
@[simp] theorem State.powerUp_key (b : Nat) : (State.powerUp b).key = defaultKey := rfl
@[simp] theorem State.powerUp_loaded (b : Nat) : (State.powerUp b).loaded = false := rfl
@[simp] theorem State.powerUp_responses (b : Nat) : (State.powerUp b).responses = [] := rfl
@[simp] theorem State.powerUp_host (b : Nat) : (State.powerUp b).host = [] := rfl
@[simp] theorem State.powerUp_resets (b : Nat) : (State.powerUp b).resets = 0 := rfl
@[simp] theorem State.powerUp_block (b : Nat) : (State.powerUp b).block = b := rfl

end Sys2Proof.Machine
end

