-- ==== Sys2Proof/Laws/Exec.lean ====
section
/-! SUPPORT. What one command, a sequence of commands and one step can do: every outcome is a next state, named once by `after`
and `afterAll`, with every field of it. -/

namespace Sys2Proof.Laws

open Sys2Proof.Machine

/-- The state a command leaves. -/
def after (i : Instr) (s : State) : State :=
  match i with
  | .nop => s
  | .ldctr a => s.loadCtr a
  | .ldkey b => s.loadKey b
  | .init a b => (s.loadCtr a).loadKey b
  | .next32 => s.advance.respond32 (squares32 s.ctr s.key)
  | .next64 => s.advance.respond64 (squares64 s.ctr s.key)
  | .rand32 a b => s.respond32 (squares32 a b)
  | .rand64 a b => s.respond64 (squares64 a b)

/-- The responses of a command, from the counter and the key it finds. -/
def responsesOf (i : Instr) (c k : Word) : List Response :=
  match i with
  | .nop => []
  | .ldctr _ => []
  | .ldkey _ => []
  | .init _ _ => []
  | .next32 => [narrowResponse c k]
  | .next64 => [wideResponse c k]
  | .rand32 a b => [narrowResponse a b]
  | .rand64 a b => [wideResponse a b]

/-- The counter a command leaves, from the one it finds. -/
def ctrAfter (i : Instr) (c : Word) : Word :=
  match i with
  | .nop => c
  | .ldctr a => a
  | .ldkey _ => c
  | .init a _ => a
  | .next32 => weyl c
  | .next64 => weyl c
  | .rand32 _ _ => c
  | .rand64 _ _ => c

/-- The key a command leaves, from the one it finds. -/
def keyAfter (i : Instr) (k : Word) : Word :=
  match i with
  | .nop => k
  | .ldctr _ => k
  | .ldkey b => b
  | .init _ b => b
  | .next32 => k
  | .next64 => k
  | .rand32 _ _ => k
  | .rand64 _ _ => k

theorem exec_eq_after (i : Instr) (s : State) : exec i s = .next (after i s) := by cases i <;> rfl

@[simp] theorem after_ctr (i : Instr) (s : State) : (after i s).ctr = ctrAfter i s.ctr := by cases i <;> rfl

@[simp] theorem after_key (i : Instr) (s : State) : (after i s).key = keyAfter i s.key := by cases i <;> rfl

@[simp] theorem after_loaded (i : Instr) (s : State) : (after i s).loaded = (s.loaded || i.loadsCtr) := by
  cases i <;> simp [after, Instr.loadsCtr]

@[simp] theorem after_responses (i : Instr) (s : State) :
    (after i s).responses = s.responses ++ responsesOf i s.ctr s.key := by
  cases i <;> simp [after, responsesOf, narrowResponse, wideResponse]

@[simp] theorem after_host (i : Instr) (s : State) : (after i s).host = s.host := by cases i <;> rfl

@[simp] theorem after_resets (i : Instr) (s : State) : (after i s).resets = s.resets := by cases i <;> rfl

@[simp] theorem after_block (i : Instr) (s : State) : (after i s).block = s.block := by cases i <;> rfl

/-- The state a sequence of commands leaves. -/
def afterAll : List Instr → State → State
  | [], s => s
  | i :: is, s => afterAll is (after i s)

theorem execAll_eq_afterAll (l : List Instr) (s : State) : execAll l s = .next (afterAll l s) := by
  induction l generalizing s with
  | nil => rfl
  | cons i is ih => simp [execAll, afterAll, exec_eq_after, ih]

theorem afterAll_append (l m : List Instr) (s : State) : afterAll (l ++ m) s = afterAll m (afterAll l s) := by
  induction l generalizing s with
  | nil => rfl
  | cons i is ih => simp [afterAll, ih]

@[simp] theorem afterAll_host (l : List Instr) (s : State) : (afterAll l s).host = s.host := by
  induction l generalizing s with
  | nil => rfl
  | cons i is ih => simp [afterAll, ih]

@[simp] theorem afterAll_resets (l : List Instr) (s : State) : (afterAll l s).resets = s.resets := by
  induction l generalizing s with
  | nil => rfl
  | cons i is ih => simp [afterAll, ih]

@[simp] theorem afterAll_block (l : List Instr) (s : State) : (afterAll l s).block = s.block := by
  induction l generalizing s with
  | nil => rfl
  | cons i is ih => simp [afterAll, ih]

/-- What one sample does, by its three kinds. -/
theorem receive_cases (p : HostPorts) (s : State) :
    (p.rst = true ∧ receive p s = .next s.applyReset) ∨
    (p.rst = false ∧ p.cmdValid = true ∧ receive p s = .next (after (decode p.cmdOp p.cmdA p.cmdB) s)) ∨
    (p.rst = false ∧ p.cmdValid = false ∧ receive p s = .next s) := by
  cases hr : p.rst <;> cases hv : p.cmdValid <;>
    simp [receive, accepts, State.cmdReady, hr, hv, exec_eq_after]

theorem step_of_nil (s : State) (h : s.host = []) : step s = .next s := by simp [step, State.fetch, h]

theorem step_of_cons (s : State) (p : HostPorts) (rest : List HostPorts) (h : s.host = p :: rest) :
    step s = receive p { s with host := rest } := by simp [step, State.fetch, h]

/-- What one step does: nothing driven, a reset, a command, or a sample without a command. -/
theorem step_cases (s : State) :
    (s.host = [] ∧ step s = .next s) ∨
    ∃ p rest, s.host = p :: rest ∧
      ((p.rst = true ∧ step s = .next ({ s with host := rest } : State).applyReset) ∨
       (p.rst = false ∧ p.cmdValid = true ∧
         step s = .next (after (decode p.cmdOp p.cmdA p.cmdB) { s with host := rest })) ∨
       (p.rst = false ∧ p.cmdValid = false ∧ step s = .next { s with host := rest })) := by
  cases h : s.host with
  | nil => exact .inl ⟨rfl, step_of_nil s h⟩
  | cons p rest =>
    refine .inr ⟨p, rest, rfl, ?_⟩
    rw [step_of_cons s p rest h]
    exact receive_cases p _

/-- A step stays in its block. -/
theorem step_block (s t : State) (h : step s = .next t) : t.block = s.block := by
  obtain ⟨-, e⟩ | ⟨p, rest, -, ⟨-, e⟩ | ⟨-, -, e⟩ | ⟨-, -, e⟩⟩ := step_cases s <;> rw [e] at h <;> cases h <;> simp

/-- Every step answers a next state. -/
theorem step_next (s : State) : ∃ t, step s = .next t := by
  obtain ⟨-, e⟩ | ⟨p, rest, -, ⟨-, e⟩ | ⟨-, -, e⟩ | ⟨-, -, e⟩⟩ := step_cases s <;> exact ⟨_, e⟩

theorem run_zero (s : State) : Sys2Proof.core.run 0 s = .next s := rfl

/-- A run whose first step answers a next state goes on from it. -/
theorem run_succ_of_next (k : Nat) (s t : State) (h : step s = .next t) :
    Sys2Proof.core.run (k + 1) s = Sys2Proof.core.run k t := by
  have e : Sys2Proof.core.step s = .next t := h
  simp [Host.Core.run, e]

end Sys2Proof.Laws
end

