-- ==== Sys2Proof/Laws/Listing.lean ====
section
/-! SUPPORT. Writing and reading of numbers, and how a text splits into words. -/

namespace Sys2Proof.Laws

open Sys2Proof.Machine

theorem hexValue_hexDigit (n : Nat) (h : n < 16) : hexValue (hexDigit n) = some n := by
  interval_cases n <;> decide

/-- A character that neither ends a word nor a line. -/
abbrev plain (c : Char) : Prop := c ≠ ';' ∧ c ≠ ' ' ∧ c ≠ ','

theorem plain_hexDigit (n : Nat) (h : n < 16) : plain (hexDigit n) := by
  interval_cases n <;> exact ⟨by decide, by decide, by decide⟩

theorem hexNumber_append (acc : Nat) (xs ys : List Char) :
    hexNumber acc (xs ++ ys) = (hexNumber acc xs).bind (fun a => hexNumber a ys) := by
  induction xs generalizing acc with
  | nil => rfl
  | cons c cs ih => simp only [List.cons_append, hexNumber]; cases hexValue c <;> simp [ih]

theorem hexNumber_hexDigits (k v acc : Nat) :
    hexNumber acc (hexDigits k v) = some (acc * 16 ^ k + v % 16 ^ k) := by
  induction k generalizing v with
  | zero => simp [hexDigits, hexNumber, Nat.mod_one]
  | succ k ih =>
    rw [hexDigits, hexNumber_append, ih]
    simp only [Option.bind_some, hexNumber, hexValue_hexDigit (v % 16) (Nat.mod_lt _ (by omega))]
    congr 1
    rw [pow_succ', Nat.mod_mul]
    ring

@[simp] theorem hexDigits_length (k v : Nat) : (hexDigits k v).length = k := by
  induction k generalizing v with
  | zero => rfl
  | succ k ih => simp [hexDigits, ih]

theorem plain_of_mem_hexDigits (k v : Nat) : ∀ c ∈ hexDigits k v, plain c := by
  induction k generalizing v with
  | zero => simp [hexDigits]
  | succ k ih =>
    intro c hc
    rcases List.mem_append.1 hc with hc | hc
    · exact ih _ c hc
    · rw [List.mem_singleton.1 hc]
      exact plain_hexDigit _ (Nat.mod_lt _ (by omega))

theorem readHex_writeHex (k v : Nat) (h : v < 16 ^ k) : readHex k (writeHex k v) = some v := by
  simp [readHex, writeHex, hexNumber_hexDigits, Nat.mod_eq_of_lt h]

theorem readHex_writeHex_of_ne (k j v : Nat) (h : j ≠ k) : readHex k (writeHex j v) = none := by
  simp [readHex, writeHex, h]

@[simp] theorem readWord_writeWord (v : Word) : readWord (writeWord v) = some v := by
  have hv := v.isLt
  rw [readWord, writeWord, readHex_writeHex _ _ (by omega)]
  simp

/-- Plain characters join the word being read. -/
theorem splitWords_plain (w xs acc : List Char) (h : ∀ c ∈ w, plain c) :
    splitWords acc (w ++ xs) = splitWords (acc ++ w) xs := by
  induction w generalizing acc with
  | nil => simp
  | cons c cs ih =>
    have hc := h c (by simp)
    rw [List.cons_append, splitWords, if_neg hc.1, if_neg hc.2.1, if_neg hc.2.2, ih _ (fun d hd => h d (by simp [hd]))]
    simp

theorem splitWords_end (w : List Char) (hw : w ≠ []) : splitWords w [] = [w] := by
  simp [splitWords, endWord, hw]

theorem splitWords_comment (w cs : List Char) (hw : w ≠ []) : splitWords w (';' :: cs) = [w] := by
  simp [splitWords, endWord, hw]

theorem splitWords_space (w xs : List Char) (hw : w ≠ []) : splitWords w (' ' :: xs) = w :: splitWords [] xs := by
  simp [splitWords, endWord, hw]

theorem splitWords_comma (w xs : List Char) (hw : w ≠ []) :
    splitWords w (',' :: xs) = w :: [','] :: splitWords [] xs := by
  simp [splitWords, endWord, hw]

end Sys2Proof.Laws
end

