-- ==== Sys2Proof/Laws/PerInstr.lean ====
section
/-! SUPPORT. One lemma per command about its syntax and its encoding: the family `EncodedFields`. -/

namespace Sys2Proof.Laws.EncodedFields

/-- A command is well-formed (R69), its word's `op` field is its opcode (R66, R70), and its operand fields hold the operands it
uses (R67), zero where it uses none (R74). -/
def Statement (i : Instr) : Prop :=
  i.wellFormed = true ∧ opField (encode i) = opcode i ∧
    aField (encode i) = (operandA i).getD 0 ∧ bField (encode i) = (operandB i).getD 0

/-- The fields of any command's word, by the packing laws. -/
theorem fields (i : Instr) (h : i.wellFormed = true) : Statement i :=
  ⟨h, opField_packWord _ _ _, aField_packWord _ _ _, bField_packWord _ _ _⟩

theorem nop : Statement .nop := fields _ rfl

theorem ldctr (a : Word) : Statement (.ldctr a) := fields _ rfl

theorem ldkey (b : Word) : Statement (.ldkey b) := fields _ rfl

theorem init (a b : Word) : Statement (.init a b) := fields _ rfl

theorem next32 : Statement .next32 := fields _ rfl

theorem next64 : Statement .next64 := fields _ rfl

theorem rand32 (a b : Word) : Statement (.rand32 a b) := fields _ rfl

theorem rand64 (a b : Word) : Statement (.rand64 a b) := fields _ rfl

end Sys2Proof.Laws.EncodedFields
end

