-- ==== Sys2Proof/Laws/System.lean ====
section
/-! SUPPORT. What a step of one block does to a system. -/

namespace Sys2Proof.Laws

open Sys2Proof.Machine

/-- A step of a block that is there puts that block's own next state in its place, and nothing else. -/
theorem stepBlock_of_some (y : System) (n : Nat) (s t : State) (hs : y.blocks[n]? = some s) (ht : step s = .next t) :
    y.stepBlock n = .next { blocks := y.blocks.set n t } := by simp [System.stepBlock, hs, ht]

theorem stepBlock_of_none (y : System) (n : Nat) (h : y.blocks[n]? = none) : y.stepBlock n = .next y := by
  simp [System.stepBlock, h]

end Sys2Proof.Laws
end

