-- ==== Sys2Proof/Tests/Slice0.lean ====
section
/-! SUPPORT. Tests. Every expected value is written out in the spec (95_test_vectors.md, or the rule named); a witness of a
statement's hypotheses is named `witness_<statement>`. -/

namespace Sys2Proof.Tests

open Sys2Proof.Machine

/-- The spec's test key `K`. -/
def testKey : Word := 0x548C9DECBCE65297

/-- A small state: counter and key given, loaded, nothing recorded or driven. -/
def small (c k : Word) : State :=
  { ctr := c, key := k, loaded := true, responses := [], host := [], resets := 0, block := 0 }

/-- The responses an outcome leaves. -/
def responsesIn (o : Host.Outcome State Fault Refusal) : List Response :=
  match o with
  | .next t => t.responses
  | .fault _ => []
  | .refused _ => []

/-! ## Well-formedness -/

/-- R69, R72: no command is ill-formed, so this check refuses none. -/
theorem test_wellFormed_every_command (i : Instr) : i.wellFormed = true := by cases i <;> rfl

/-- R74: a sample has no encoding. -/
theorem test_encodable_refuses_samples :
    Line.encodable .sampleCtr = false ∧ Line.encodable .sampleKey = false ∧ Line.encodable .next64 = true := by decide

/-- R7: an even increment is refused; the spec's two example increments pass. -/
theorem test_weylIncOk_refuses_even :
    weylIncOk 2 = false ∧ weylIncOk 1 = true ∧ weylIncOk 0x9E3779B97F4A7C15 = true := by decide

/-- R64: a shown narrow response with a bit above 31 is refused. -/
theorem test_listed_refuses_wide_narrow_response :
    ListedLine.wellFormed { line := .next32, shown := some { w64 := false, data := 0x100000000 } } = false ∧
    ListedLine.wellFormed { line := .next32, shown := some { w64 := false, data := 0xFFFFFFFF } } = true := by decide

/-! ## Decoding: R66 and R70 written out, `op` bit by bit, `a` and `b` in hexadecimal -/

theorem test_decode_nop : decodeWord (0b000#3 ++ 0x0000000000000000#64 ++ 0x0000000000000000#64) = .nop := by decide

theorem test_decode_ldctr : decodeWord (0b001#3 ++ 0x0000000000000007#64 ++ 0x0000000000000000#64) = .ldctr 7 := by
  decide

theorem test_decode_ldkey :
    decodeWord (0b010#3 ++ 0x0000000000000000#64 ++ 0x548C9DECBCE65297#64) = .ldkey testKey := by decide

theorem test_decode_init :
    decodeWord (0b011#3 ++ 0x0000000000000001#64 ++ 0x548C9DECBCE65297#64) = .init 1 testKey := by decide

/-- The rule's own word (R76). -/
theorem test_decode_init_packed : decodeWord 0x3_0000000000000001_548C9DECBCE65297 = .init 1 testKey := by decide

theorem test_decode_next32 : decodeWord (0b100#3 ++ 0xDEADBEEFCAFEBABE#64 ++ 0x0123456789ABCDEF#64) = .next32 := by decide

theorem test_decode_next64 : decodeWord (0b101#3 ++ 0x0000000000000000#64 ++ 0x0000000000000000#64) = .next64 := by
  decide

theorem test_decode_rand32 :
    decodeWord (0b110#3 ++ 0x0000000000000001#64 ++ 0x548C9DECBCE65297#64) = .rand32 1 testKey := by decide

theorem test_decode_rand64 :
    decodeWord (0b111#3 ++ 0xFFFFFFFFFFFFFFFF#64 ++ 0x548C9DECBCE65297#64) = .rand64 0xFFFFFFFFFFFFFFFF testKey := by
  decide

/-- The opcode table's numbering, as its `fixed` column gives it: the selector in bits 2:0, one byte, operands zero. -/
theorem test_decode_table_rows :
    decodeTableWord 8 0 = some .nop ∧ decodeTableWord 8 1 = some (.ldctr 0) ∧ decodeTableWord 8 2 = some (.ldkey 0) ∧
    decodeTableWord 8 3 = some (.init 0 0) ∧ decodeTableWord 8 4 = some .next32 ∧ decodeTableWord 8 5 = some .next64 ∧
    decodeTableWord 8 6 = some (.rand32 0 0) ∧ decodeTableWord 8 7 = some (.rand64 0 0) := by decide

/-- The next step runs the command put on the port, first after reset. -/
theorem test_withFetchWord_runs_it :
    step (State.reset.withFetchWord 8 1) = .next { State.reset with ctr := 0, loaded := true } := by rfl

/-! ## Datapath -/

/-- V5, V7, V9, V10. -/
theorem test_mul64 :
    mul64 0x0000000100000001 0x0000000100000001 = 0x0000000200000001 ∧
    mul64 0xDEADBEEFCAFEBABE 0xDEADBEEFCAFEBABE = 0xB295B2EEF140A504 ∧
    mul64 0xFFFFFFFFFFFFFFFF testKey = 0xAB7362134319AD69 ∧ mul64 0x8000000000000000 2 = 0 := by decide

/-- V15 to V22. -/
theorem test_rot32 :
    rot32 0x0123456789ABCDEF = 0x89ABCDEF01234567 ∧ rot32 0x00000000FFFFFFFF = 0xFFFFFFFF00000000 ∧
    rot32 0xDEADBEEF00000000 = 0x00000000DEADBEEF ∧ rot32 0x8000000000000001 = 0x0000000180000000 := by decide

/-- V23 to V28. -/
theorem test_hi32_xor64 :
    hi32 0x944716E0563997F7 = 0x944716E0 ∧ hi32 0x8000000000000001 = 0x80000000 ∧
    xor64 0x944716E0563997F7 0x000000005859485D = 0x944716E00E60DFAA ∧
    xor64 0x36D88366219CD448 0x00000000EF7AE7ED = 0x36D88366CEE633A5 := by decide

/-- V43: the largest counter, every intermediate value. -/
theorem test_trace_largest_counter :
    trace 0xFFFFFFFFFFFFFFFF testKey =
      { y := 0xAB7362134319AD69, z := 0, x0 := 0xAB7362134319AD69,
        s1 := 0x6DF3F7018D12C27A, x1 := 0x8D12C27A6DF3F701, s2 := 0x944299C9B438EE01, x2 := 0xB438EE01944299C9,
        s3 := 0xEFB764C9531F8D3A, x3 := 0x531F8D3AEFB764C9, s4 := 0x434506A48D0BA5D1, x4 := 0x8D0BA5D1434506A4,
        s5 := 0xC87CD5F1AFADC679 } := by decide

/-- V53: the second key, every intermediate value. -/
theorem test_trace_second_key :
    trace 0x123456789ABCDEF0 0xC58EFD154CE32F6D =
      { y := 0x89FBB71B7E28FC30, z := 0x4F8AB430CB0C2B9D, x0 := 0x89FBB71B7E28FC30,
        s1 := 0xE379E80A85978530, x1 := 0x85978530E379E80A, s2 := 0x3249877FB2D24C01, x2 := 0xB2D24C013249877F,
        s3 := 0x893EFC25A84E2D31, x3 := 0xA84E2D31893EFC25, s4 := 0x7E6CB5B97F5108F6, x4 := 0x7F5108F67E6CB5B9,
        s5 := 0x19C5B7B36F401BE1 } := by decide

/-- V40, V42, V47, V49 to V53: both outputs. -/
theorem test_outputs :
    squares32 0 testKey = 0x36D88366 ∧ squares64 0 testKey = 0x36D88366CEE633A5 ∧
    squares32 2 testKey = 0xC8A8F4E0 ∧ squares64 2 testKey = 0xC8A8F4E0678654BF ∧
    squares32 1 1 = 0 ∧ squares64 1 1 = 2 ∧
    squares32 0xFFFFFFFFFFFFFFFF 0xFFFFFFFFFFFFFFFF = 0 ∧ squares64 0xFFFFFFFFFFFFFFFF 0xFFFFFFFFFFFFFFFF = 0 ∧
    squares32 1 0xFFFFFFFFFFFFFFFF = 0 ∧ squares64 1 0xFFFFFFFFFFFFFFFF = 0x00000000FFFFFFFD ∧
    squares32 0x0000000100000000 1 = 0x0000000B ∧ squares64 0x0000000100000000 1 = 0x0000000B00000227 ∧
    squares32 0x8000000000000000 testKey = 0x784AB5C1 ∧ squares64 0x8000000000000000 testKey = 0x784AB5C16CBF349A ∧
    squares32 0x123456789ABCDEF0 0xC58EFD154CE32F6D = 0x7E6CB5B9 ∧
    squares64 0x123456789ABCDEF0 0xC58EFD154CE32F6D = 0x7E6CB5B96694BF45 := by decide

/-- V48: more counters under `K`. -/
theorem test_outputs_more_counters :
    squares64 3 testKey = 0x35CC666AAB11C80D ∧ squares64 4 testKey = 0x7094EAB1CBAE8747 ∧
    squares64 5 testKey = 0xA2A1B6F56E92A96F ∧ squares64 6 testKey = 0xD884957D48007552 ∧
    squares64 7 testKey = 0xE61F37B97D593453 ∧ squares64 8 testKey = 0xE4D45C4762B10DAD ∧
    squares64 0x9E3779B97F4A7C15 testKey = 0x384DF3E54E81E7DE ∧
    squares64 0x3C6EF372FE94F82A testKey = 0x4357993A3A6E386E := by decide

/-- R113, R182: the schedule gives V41's outputs, in five and six multiplier passes. -/
theorem test_schedule :
    (runRows 1 testKey (schedule false) { y := 1, z := 2, x := 3, t := 4, out := 5 }).out = 0x00000000944716E0 ∧
    (runRows 1 testKey (schedule true) { y := 1, z := 2, x := 3, t := 4, out := 5 }).out = 0x944716E00E60DFAA ∧
    multiplierPasses false = 5 ∧ multiplierPasses true = 6 := by decide

/-- V66, V67, V68, V69, on the adder with the spec's example increment `G`. -/
theorem test_weyl_example_increment :
    add64 0xFFFFFFFFFFFFFFFF 0x9E3779B97F4A7C15 = 0x9E3779B97F4A7C14 ∧
    (0 + BitVec.ofNat 64 3 * 0x9E3779B97F4A7C15 : Word) = 0xDAA66D2C7DDF743F ∧
    (0 + BitVec.ofNat 64 1048576 * 0x9E3779B97F4A7C15 : Word) = 0x9B97F4A7C1500000 ∧
    add64 0x8000000000000000 0x9E3779B97F4A7C15 = 0x1E3779B97F4A7C15 := by decide

/-! ## Commands: one step each -/

/-- V72. -/
theorem test_nop : exec .nop (small 5 testKey) = .next (small 5 testKey) := rfl

/-- V73: the counter counts as loaded, the default key stays. -/
theorem test_ldctr : exec (.ldctr 7) State.reset = .next { State.reset with ctr := 7, loaded := true } := rfl

/-- V74. -/
theorem test_ldkey : exec (.ldkey testKey) (small 7 1) = .next (small 7 testKey) := rfl

/-- V75: the counter is still not loaded. -/
theorem test_ldkey_unloaded : exec (.ldkey testKey) State.reset = .next { State.reset with key := testKey } := rfl

/-- V76. -/
theorem test_init :
    exec (.init 0 testKey) State.reset = .next { State.reset with ctr := 0, key := testKey, loaded := true } := rfl

/-- V77: the response of the old counter, the counter advanced by the increment, whatever it is. -/
theorem test_next32 :
    responsesIn (exec .next32 (small 0 testKey)) = [{ w64 := false, data := 0x0000000036D88366 }] ∧
    exec .next32 (small 0 testKey) =
      .next { small (0 + weylInc) testKey with responses := responsesIn (exec .next32 (small 0 testKey)) } :=
  ⟨by decide, rfl⟩

/-- V78. -/
theorem test_next64 :
    responsesIn (exec .next64 (small 1 testKey)) = [{ w64 := true, data := 0x944716E00E60DFAA }] ∧
    exec .next64 (small 1 testKey) =
      .next { small (1 + weylInc) testKey with responses := responsesIn (exec .next64 (small 1 testKey)) } :=
  ⟨by decide, rfl⟩

/-- V81: a zero key responds 0 and still advances. -/
theorem test_next64_zero_key :
    responsesIn (exec .next64 (small 9 0)) = [{ w64 := true, data := 0 }] := by decide

/-- V82: the state is unchanged but for the response. -/
theorem test_rand32 :
    responsesIn (exec (.rand32 1 testKey) (small 5 0xC58EFD154CE32F6D)) = [{ w64 := false, data := 0x00000000944716E0 }] := by
  decide

/-- V83. -/
theorem test_rand64 :
    responsesIn (exec (.rand64 1 testKey) (small 5 0xC58EFD154CE32F6D)) = [{ w64 := true, data := 0x944716E00E60DFAA }] := by
  decide

/-- V84: legal before the counter is loaded, and it does not load it. -/
theorem test_rand64_unloaded :
    exec (.rand64 0 testKey) State.reset =
      .next { State.reset with responses := responsesIn (exec (.rand64 0 testKey) State.reset) } := rfl

/-- R162: each block resets by itself, to a free value of its own. -/
theorem test_block_resets_alone :
    System.stepBlock 1 { blocks := [small 1 2, { small 3 4 with block := 1, host := [portsReset] }] } =
      .next { blocks := [small 1 2, { State.powerUp 1 with ctr := powerUpCtr 1 1, resets := 1 }] } := rfl

/-! ## Listings (R74, R75, R76) -/

/-- R76's two lines and V91, V92, V97, from their text. -/
theorem test_listing_lines_encode :
    (readListed "INIT 0x0000000000000001, 0x548C9DECBCE65297".toList).bind (fun l => l.line.encode) =
      some 0x3_0000000000000001_548C9DECBCE65297 ∧
    (readListed "NEXT64".toList).bind (fun l => l.line.encode) = some 0x5_0000000000000000_0000000000000000 ∧
    (readListed "LDCTR 0x0000000000000007".toList).bind (fun l => l.line.encode) =
      some 0x1_0000000000000007_0000000000000000 ∧
    (readListed "LDKEY 0x548C9DECBCE65297".toList).bind (fun l => l.line.encode) =
      some 0x2_0000000000000000_548C9DECBCE65297 ∧
    (readListed "RAND64 0xFFFFFFFFFFFFFFFF, 0x548C9DECBCE65297".toList).bind (fun l => l.line.encode) =
      some 0x7_FFFFFFFFFFFFFFFF_548C9DECBCE65297 := by decide

/-- R74's shown response and sample, R75's aliases, a comment. -/
theorem test_listing_other_lines :
    readListed "NEXT32 -> 0x36D88366".toList =
      some { line := .command .next32, shown := some { w64 := false, data := 0x36D88366 } } ∧
    readListed "? ctr_q".toList = some { line := .sampleCtr, shown := none } ∧
    readListed "next_u32 0x0000000000000001, 0x0000000000000002 ; a comment".toList =
      some { line := .nextU32 1 2, shown := none } ∧
    readListed "NEW 0x0000000000000005".toList = some { line := .newCtr 5, shown := none } ∧
    readListed "INIT 0x0000000000000001".toList = none ∧
    readListed "STOP".toList = none := by decide

/-! ## Witnesses of the statements' hypotheses -/

theorem witness_IgnoredFieldsHaveNoEffect :
    (0b000 : OpField) ∈ [(0b000 : OpField), 0b010, 0b100, 0b101] ∧ (0b101 : OpField) ∈ [(0b000 : OpField), 0b001, 0b100, 0b101] ∧
    ((0b001 : OpField) ∈ [(0b001 : OpField), 0b011, 0b110, 0b111] ∧ (0 : Word) ≠ 0xFFFFFFFFFFFFFFFF) ∧
    ((0b111 : OpField) ∈ [(0b010 : OpField), 0b011, 0b110, 0b111] ∧ (0 : Word) ≠ 1) := by decide

theorem witness_ListingTextReadsBack :
    ListedLine.wellFormed { line := .command (.init 1 2), shown := none } = true ∧
    ListedLine.wellFormed { line := .next32, shown := some { w64 := false, data := 0xFFFFFFFF } } = true ∧
    ListedLine.wellFormed { line := .next64, shown := some { w64 := true, data := 0xFFFFFFFFFFFFFFFF } } = true := by decide

theorem witness_XorIsBitwise : 0 < 64 ∧ 63 < 64 ∧ (0xFFFFFFFF : Word).toNat < 2 ^ 32 := by decide

theorem witness_SignFillWouldInvertTheHighHalf :
    (trace 0 testKey).s5.getLsbD 63 = true ∧ (trace 1 testKey).s5.getLsbD 63 = false := by decide

theorem witness_OutputSelectorForms :
    (0b100 : OpField).getLsbD 2 = true ∧ (0b111 : OpField).getLsbD 2 = true := by decide

theorem witness_WeylAdvancesTheCounterOncePerDraw :
    Instr.isDraw .next32 = true ∧ Instr.isDraw .next64 = true ∧ [Instr.next32, .next64].all Instr.isDraw = true := by decide

theorem witness_NopDoesNothing : Instr.isDraw .next32 = true ∧ Instr.isDraw .next64 = true := by decide

theorem witness_LdctrLoadsTheCounter : Instr.isDraw .next64 = true := by decide

theorem witness_LdkeyLoadsTheKey :
    [Instr.next32, .ldctr 5, .rand64 1 2, .nop].any Instr.loadsKey = false ∧ Instr.isDraw .next64 = true := by decide

theorem witness_OnlyResetUnloadsTheCounter :
    ((small 1 2).loaded = true ∧ exec .nop (small 1 2) = .next (small 1 2)) ∧
    ∃ t, step { small 1 2 with host := [portsReset] } = .next t ∧ t.loaded = false :=
  ⟨⟨rfl, rfl⟩, _, rfl, rfl⟩

theorem witness_LoadedMarkIsAGhost :
    ({ small 1 2 with host := [portsReset] } : State).host = portsReset :: [] ∧ portsReset.rst = true := ⟨rfl, rfl⟩

theorem witness_Next32DrawsAndAdvances : (small 9 0).key = 0 := rfl

theorem witness_Next64DrawsAndAdvances : (small 0xFFFFFFFFFFFFFFFF 0).key = 0 := rfl

theorem witness_DrawsFollowThePureFunctions :
    (∃ t, exec (.rand32 (small 1 testKey).ctr (small 1 testKey).key) (small 1 testKey) = .next t) ∧
    (∃ t, exec (.rand64 (small 1 testKey).ctr (small 1 testKey).key) (small 1 testKey) = .next t) ∧
    [Instr.next64, .next32].all Instr.isDraw = true := ⟨⟨_, rfl⟩, ⟨_, rfl⟩, rfl⟩

theorem witness_CounterAfterAnySequence :
    [Instr.next64, .nop, .ldkey 1, .rand32 1 2].any Instr.loadsCtr = false ∧ Instr.isDraw .next32 = true := by decide

theorem witness_ReplayFromASnapshot : [Instr.next64, .next32].all Instr.isDraw = true := by decide

theorem witness_SideEffectsAndRepetition :
    Instr.isPure (.rand32 1 2) = true ∧ Instr.isPure (.rand64 1 2) = true ∧ Instr.isDraw .next32 = true := by decide

theorem witness_ResponsesFollowTheGenerateCommands :
    Instr.isGenerate .next32 = true ∧ Instr.isGenerate (.rand64 1 2) = true ∧ (small 1 2).responses = [] := by decide

theorem witness_RequestersInterleaveWholeDraws :
    ([Instr.next32].all Instr.isDraw = true ∧ [Instr.next64].all Instr.isDraw = true ∧
      Interleaving [Instr.next32] [.next64] [.next64, .next32]) ∧
    (0 < 1 ∧ 1 - 0 < 2 ^ 64) ∧ (0 < 2 ^ 64 - 1 ∧ 2 ^ 64 - 1 - 0 < 2 ^ 64) :=
  ⟨⟨by decide, by decide, .right _ _ _ _ (.left _ _ _ _ .done)⟩, by omega, by omega⟩

theorem witness_PureCommandsCommuteWithEverything : Instr.isPure (.rand32 0 0) = true := by decide

theorem witness_CounterIsWrittenAndReadAsListed :
    Instr.isDraw (.rand64 1 2) = false ∧ Instr.loadsCtr (.rand64 1 2) = false ∧
    Instr.isDraw (.ldkey 1) = false ∧ Instr.loadsCtr (.ldkey 1) = false := by decide

theorem witness_KeyIsWrittenAndReadAsListed :
    (({ small 1 2 with host := [portsReset] } : State).host = portsReset :: [] ∧ portsReset.rst = true) ∧
    Instr.isDraw (.ldctr 1) = false ∧ Instr.loadsKey (.ldctr 1) = false := ⟨⟨rfl, rfl⟩, rfl, rfl⟩

theorem witness_KeyIsConstantBetweenLoads :
    noReset [present .next32, portsIdle, present (.ldctr 1)] = true ∧
    noKeyLoad [present .next32, portsIdle, present (.ldctr 1)] = true := by decide

theorem witness_NoHiddenState :
    (small 1 2).ctr = ({ small 1 2 with loaded := false, resets := 3 } : State).ctr ∧
    (small 1 2).key = ({ small 1 2 with loaded := false, resets := 3 } : State).key := ⟨rfl, rfl⟩

theorem witness_IdleHostChangesNothing :
    (∀ p ∈ [portsIdle, portsIdle], p.rst = false ∧ p.cmdValid = false) ∧ (small 1 2).host = [] := by decide

theorem witness_ResponsesHaveTheirForm :
    Instr.isGenerate .nop = false ∧ Instr.isGenerate .next64 = true ∧ Instr.isGenerate (.rand32 1 2) = true := by decide

theorem witness_StepRunsTheDecodedCommand :
    ({ small 1 2 with host := [present (.init 3 4)] } : State).host = present (.init 3 4) :: [] ∧
    (present (.init 3 4)).rst = false ∧ (present (.init 3 4)).cmdValid = true ∧
    decode (present (.init 3 4)).cmdOp (present (.init 3 4)).cmdA (present (.init 3 4)).cmdB = .init 3 4 := by decide

theorem witness_ResetStateHoldsTheDefaultKey : [Instr.nop, .ldctr 1, .ldkey 2, .init 1 2].any Instr.isGenerate = false := by
  decide

theorem witness_ResetEventFromAnyState :
    ({ small 1 2 with host := [portsReset, portsIdle] } : State).host = portsReset :: [portsIdle] ∧
    portsReset.rst = true := ⟨rfl, rfl⟩

theorem witness_UnloadedDrawRunsFromWhateverIsHeld : State.reset.loaded = false := rfl

theorem witness_LoadingFirstHidesThePowerUpCounter :
    loadsBeforeDraws false [.ldkey 1, .rand32 1 2, .ldctr 3, .next32] = true ∧ (small 1 2).key = (small 3 2).key ∧
    [Instr.ldctr 3].any Instr.loadsCtr = true := by decide

theorem witness_StepKeepsNarrowResponsesNarrow :
    ResponsesInv { small 1 2 with responses := [{ w64 := false, data := 0xFFFFFFFF }], host := [present .next32] } ∧
    ∃ t, step { small 1 2 with
      responses := [{ w64 := false, data := 0xFFFFFFFF }], host := [present .next32] } = .next t := by
  refine ⟨?_, _, rfl⟩
  intro r hr _
  rw [List.mem_singleton.1 hr]
  decide

theorem witness_BlocksAreIndependent :
    (0 : Nat) ≠ 1 ∧ ∃ a b c d,
      System.stepBlock 0 { blocks := [small 1 2, small 3 4] } = .next a ∧ a.stepBlock 1 = .next b ∧
      System.stepBlock 1 { blocks := [small 1 2, small 3 4] } = .next c ∧ c.stepBlock 0 = .next d :=
  ⟨by decide, _, _, _, _, rfl, rfl, rfl, rfl⟩

/-- A block that is there, at the last place, and a place past it; a numbered system and its step. -/
theorem witness_BlocksAreIndependent_places :
    ({ blocks := [small 1 2, small 3 4] } : System).blocks[1]? = some (small 3 4) ∧
    step (small 3 4) = .next (small 3 4) ∧
    ({ blocks := [small 1 2, small 3 4] } : System).blocks[2]? = none ∧
    System.Numbered { blocks := [small 1 2] } ∧
    System.stepBlock 0 { blocks := [small 1 2] } = .next { blocks := [small 1 2] } := by
  refine ⟨rfl, rfl, rfl, ?_, rfl⟩
  rintro (_ | n) s h
  · cases h; rfl
  · cases h

end Sys2Proof.Tests
end

section
/-! SUPPORT. State laws for the family 10_state: which commands keep a register and do not read it, what a whole sequence of
commands does to each register, and runs of an undriven block. -/

namespace Sys2Proof.Laws

open Sys2Proof.Machine

/-! ## One command: what it keeps and what it does not read (R21, R22, R49) -/

theorem ctrAfter_of_not_writes {i : Instr} (hd : i.isDraw = false) (hl : i.loadsCtr = false) (c : Word) :
    ctrAfter i c = c := by
  cases i with
  | nop | ldkey | rand32 | rand64 => rfl
  | next32 | next64 => cases hd
  | ldctr | init => cases hl

theorem keyAfter_of_not_loadsKey {i : Instr} (hl : i.loadsKey = false) (k : Word) : keyAfter i k = k := by
  cases i with
  | nop | ldctr | next32 | next64 | rand32 | rand64 => rfl
  | ldkey | init => cases hl

theorem responsesOf_of_not_generate {i : Instr} (hg : i.isGenerate = false) (c k : Word) : responsesOf i c k = [] := by
  cases i with
  | nop | ldctr | ldkey | init => rfl
  | next32 | next64 | rand32 | rand64 => cases hg

/-- A command that neither draws nor loads the counter carries any counter through and does the same under it. -/
theorem after_with_ctr {i : Instr} (hd : i.isDraw = false) (hl : i.loadsCtr = false) (s : State) (c : Word) :
    after i { s with ctr := c } = { after i s with ctr := c } := by
  cases i with
  | nop | ldkey | rand32 | rand64 => rfl
  | next32 | next64 => cases hd
  | ldctr | init => cases hl

/-- A command that neither draws nor loads the key carries any key through and does the same under it. -/
theorem after_with_key {i : Instr} (hd : i.isDraw = false) (hl : i.loadsKey = false) (s : State) (k : Word) :
    after i { s with key := k } = { after i s with key := k } := by
  cases i with
  | nop | ldctr | rand32 | rand64 => rfl
  | next32 | next64 => cases hd
  | ldkey | init => cases hl

/-! ## Sequences of commands: each register and the responses as functions of `CTR` and `KEY` alone (R31) -/

/-- The counter a sequence of commands leaves, from the one it finds. -/
def ctrAfterAll : List Instr → Word → Word
  | [], c => c
  | i :: is, c => ctrAfterAll is (ctrAfter i c)

/-- The key a sequence of commands leaves, from the one it finds. -/
def keyAfterAll : List Instr → Word → Word
  | [], k => k
  | i :: is, k => keyAfterAll is (keyAfter i k)

/-- The responses of a sequence of commands, oldest first, from the counter and the key it finds. -/
def responsesOfAll : List Instr → Word → Word → List Response
  | [], _, _ => []
  | i :: is, c, k => responsesOf i c k ++ responsesOfAll is (ctrAfter i c) (keyAfter i k)

@[simp] theorem afterAll_ctr (l : List Instr) (s : State) : (afterAll l s).ctr = ctrAfterAll l s.ctr := by
  induction l generalizing s with
  | nil => rfl
  | cons i is ih => simp [afterAll, ctrAfterAll, ih]

@[simp] theorem afterAll_key (l : List Instr) (s : State) : (afterAll l s).key = keyAfterAll l s.key := by
  induction l generalizing s with
  | nil => rfl
  | cons i is ih => simp [afterAll, keyAfterAll, ih]

@[simp] theorem afterAll_responses (l : List Instr) (s : State) :
    (afterAll l s).responses = s.responses ++ responsesOfAll l s.ctr s.key := by
  induction l generalizing s with
  | nil => simp [afterAll, responsesOfAll]
  | cons i is ih => simp [afterAll, responsesOfAll, ih]

theorem responsesOfAll_of_no_generate {l : List Instr} (hg : l.any Instr.isGenerate = false) (c k : Word) :
    responsesOfAll l c k = [] := by
  induction l generalizing c k with
  | nil => rfl
  | cons i is ih =>
    obtain ⟨hi, his⟩ : i.isGenerate = false ∧ is.any Instr.isGenerate = false := by simpa using hg
    rw [responsesOfAll, responsesOf_of_not_generate hi, ih his, List.nil_append]

/-! ## Samples and runs -/

theorem receive_of_rst {p : HostPorts} (h : p.rst = true) (s : State) : receive p s = .next s.applyReset :=
  if_pos h

/-- A sample that neither resets nor loads the key keeps the key, and takes nothing more of what the host drives. -/
theorem receive_keeps_key {p : HostPorts} (hr : p.rst = false)
    (hl : (p.cmdValid && (decode p.cmdOp p.cmdA p.cmdB).loadsKey) = false) (s : State) :
    ∃ t, receive p s = .next t ∧ t.key = s.key ∧ t.host = s.host := by
  obtain ⟨hr', -⟩ | ⟨-, hv, e⟩ | ⟨-, -, e⟩ := receive_cases p s
  · rw [hr] at hr'
    cases hr'
  · rw [hv, Bool.true_and] at hl
    exact ⟨_, e, (after_key _ s).trans (keyAfter_of_not_loadsKey hl s.key), after_host _ s⟩
  · exact ⟨s, e, rfl, rfl⟩

theorem noReset_cons (p : HostPorts) (ps : List HostPorts) :
    noReset (p :: ps) = true ↔ p.rst = false ∧ noReset ps = true := by
  rw [noReset, List.all_cons, Bool.and_eq_true, Bool.not_eq_true', noReset]

theorem noKeyLoad_cons (p : HostPorts) (ps : List HostPorts) :
    noKeyLoad (p :: ps) = true ↔
      (p.cmdValid && (decode p.cmdOp p.cmdA p.cmdB).loadsKey) = false ∧ noKeyLoad ps = true := by
  rw [noKeyLoad, List.all_cons, Bool.and_eq_true, Bool.not_eq_true', noKeyLoad]

/-- A block that nothing drives stays as it is (R63). -/
theorem run_of_host_nil (n : Nat) {s : State} (h : s.host = []) : Sys2Proof.core.run n s = .next s := by
  induction n with
  | zero => exact run_zero s
  | succ n ih => rw [run_succ_of_next n s s (step_of_nil s h), ih]

/-- Along a run whose samples neither reset nor load the key, every step keeps the key (R23). -/
theorem run_keeps_key (n : Nat) (s : State) (hr : noReset (s.host.take n) = true)
    (hl : noKeyLoad (s.host.take n) = true) : ∃ t, Sys2Proof.core.run n s = .next t ∧ t.key = s.key := by
  induction n generalizing s with
  | zero => exact ⟨s, run_zero s, rfl⟩
  | succ n ih =>
    cases hs : s.host with
    | nil => exact ⟨s, run_of_host_nil (n + 1) hs, rfl⟩
    | cons p rest =>
      rw [hs, List.take_succ_cons] at hr hl
      obtain ⟨hpr, hr⟩ := (noReset_cons _ _).1 hr
      obtain ⟨hpl, hl⟩ := (noKeyLoad_cons _ _).1 hl
      obtain ⟨t, ht, hkey, hhost⟩ := receive_keeps_key hpr hpl { s with host := rest }
      have hstep : step s = .next t := (step_of_cons s p rest hs).trans ht
      obtain ⟨u, hu, huk⟩ := ih t (by rw [hhost]; exact hr) (by rw [hhost]; exact hl)
      exact ⟨u, (run_succ_of_next n s t hstep).trans hu, huk.trans hkey⟩

end Sys2Proof.Laws
end

section
/-! PROOF. The statements of 10_state.md. -/

namespace Sys2Proof.Proofs

open Sys2Proof.Machine Sys2Proof.Laws

/-- Settles O45, from the fields `after` gives each command and the frame law `after_with_ctr`. -/
theorem counterIsWrittenAndReadAsListed : Obligations.CounterIsWrittenAndReadAsListed := by
  refine ⟨fun a b s => ⟨?ldctr, ?init, ?next32, ?next64, ?ctrQ⟩, fun i s c hd hl => ?others⟩
  case ldctr => exact ⟨_, exec_eq_after _ s, after_ctr _ s⟩
  case init => exact ⟨_, exec_eq_after _ s, after_ctr _ s⟩
  case next32 => exact ⟨_, exec_eq_after _ s, after_ctr _ s, after_responses _ s⟩
  case next64 => exact ⟨_, exec_eq_after _ s, after_ctr _ s, after_responses _ s⟩
  case ctrQ => rfl
  case others =>
    refine ⟨after i s, exec_eq_after i s, ?_, ?_⟩
    · rw [after_ctr, ctrAfter_of_not_writes hd hl]
    · rw [exec_eq_after, after_with_ctr hd hl]

/-- Settles O46, from the fields `after` and `applyReset` give and the frame law `after_with_key`. -/
theorem keyIsWrittenAndReadAsListed : Obligations.KeyIsWrittenAndReadAsListed := by
  refine ⟨fun a b s => ⟨?ldkey, ?init, ?next32, ?next64, ?keyQ⟩, fun s p rest hs hr => ?reset, fun i s k hd hl => ?others⟩
  case ldkey => exact ⟨_, exec_eq_after _ s, after_key _ s⟩
  case init => exact ⟨_, exec_eq_after _ s, after_key _ s⟩
  case next32 => exact ⟨_, exec_eq_after _ s, after_key _ s, after_responses _ s⟩
  case next64 => exact ⟨_, exec_eq_after _ s, after_key _ s, after_responses _ s⟩
  case keyQ => rfl
  case reset => exact ⟨_, (step_of_cons s p rest hs).trans (receive_of_rst hr _), State.applyReset_key _⟩
  case others =>
    refine ⟨after i s, exec_eq_after i s, ?_, ?_⟩
    · rw [after_key, keyAfter_of_not_loadsKey hl]
    · rw [exec_eq_after, after_with_key hd hl]

/-- Settles O47, by induction on the number of steps. -/
theorem keyIsConstantBetweenLoads : Obligations.KeyIsConstantBetweenLoads :=
  run_keeps_key

/-- Settles O48: the registers and the responses after a sequence are functions of `CTR` and `KEY` before it. -/
theorem noHiddenState : Obligations.NoHiddenState := by
  intro l s u hctr hkey
  refine ⟨afterAll l s, afterAll l u, responsesOfAll l s.ctr s.key, execAll_eq_afterAll l s, execAll_eq_afterAll l u,
    afterAll_responses l s, ?_, ?_, ?_⟩
  · rw [afterAll_responses, hctr, hkey]
  · rw [afterAll_ctr, afterAll_ctr, hctr]
  · rw [afterAll_key, afterAll_key, hkey]

/-- Settles O52: a sequence without generate commands adds no response, and an undriven block stays as it is. -/
theorem resetStateHoldsTheDefaultKey : Obligations.ResetStateHoldsTheDefaultKey := by
  refine ⟨rfl, rfl, rfl, fun l hl => ⟨afterAll l State.reset, execAll_eq_afterAll l _, ?_⟩, fun n => run_of_host_nil n rfl⟩
  calc (afterAll l State.reset).responses
      = State.reset.responses ++ responsesOfAll l State.reset.ctr State.reset.key := afterAll_responses l _
    _ = State.reset.responses ++ [] := by rw [responsesOfAll_of_no_generate hl]
    _ = [] := rfl

end Sys2Proof.Proofs
end

section
/-! SUPPORT. Laws for the family 20_memory: a command and a sequence on a state with another host or other responses, how many
responses a sequence gives, the counter values of a series of draws, and the orders of two requesters' commands. -/

namespace Sys2Proof.Laws

open Sys2Proof.Machine

/-! ## Whole states: draws, pure commands, and what no command reads (R44, R55) -/

/-- What a draw does to the whole state (R140, R141). -/
theorem after_of_draw {d : Instr} (hd : d.isDraw = true) (s : State) :
    after d s = { s with ctr := weyl s.ctr, responses := s.responses ++ [drawResponse d s.ctr s.key] } := by
  cases d with
  | next32 | next64 => rfl
  | nop | ldctr | ldkey | init | rand32 | rand64 => cases hd

/-- A pure command emits one response, whatever the state (R55). -/
theorem after_of_pure {g : Instr} (hg : g.isPure = true) : ∃ r, ∀ s : State, after g s = s.emit r := by
  cases g with
  | rand32 a b => exact ⟨narrowResponse a b, fun _ => rfl⟩
  | rand64 a b => exact ⟨wideResponse a b, fun _ => rfl⟩
  | nop | ldctr | ldkey | init | next32 | next64 => cases hg

/-- A command carries through whatever the host drives next. -/
theorem after_with_host (i : Instr) (s : State) (h : List HostPorts) :
    after i { s with host := h } = { after i s with host := h } := by cases i <;> rfl

/-- A command reads no earlier response: it adds its own to whatever is recorded. -/
theorem after_with_responses (i : Instr) (s : State) (q : List Response) :
    after i { s with responses := q } = { after i s with responses := q ++ responsesOf i s.ctr s.key } := by
  cases i with
  | nop | ldctr | ldkey | init => simp [after, responsesOf, State.loadCtr, State.loadKey]
  | next32 | next64 | rand32 | rand64 => rfl

/-- A sequence of commands reads no earlier response: it adds its own to whatever is recorded. -/
theorem afterAll_with_responses (l : List Instr) (s : State) (q : List Response) :
    afterAll l { s with responses := q } =
      { afterAll l s with responses := q ++ responsesOfAll l s.ctr s.key } := by
  induction l generalizing s q with
  | nil => simp [afterAll, responsesOfAll]
  | cons i is ih =>
    rw [afterAll, after_with_responses, ih]
    simp [afterAll, responsesOfAll]

/-! ## How many responses there are (R49) -/

theorem responsesOf_of_generate {g : Instr} (hg : g.isGenerate = true) (c k : Word) : ∃ r, responsesOf g c k = [r] := by
  cases g with
  | next32 | next64 | rand32 | rand64 => exact ⟨_, rfl⟩
  | nop | ldctr | ldkey | init => cases hg

theorem responsesOf_length (i : Instr) (c k : Word) :
    (responsesOf i c k).length = if i.isGenerate then 1 else 0 := by cases i <;> rfl

theorem generateCount_cons (i : Instr) (is : List Instr) :
    generateCount (i :: is) = generateCount is + if i.isGenerate then 1 else 0 := List.countP_cons

theorem responsesOfAll_length (l : List Instr) (c k : Word) : (responsesOfAll l c k).length = generateCount l := by
  induction l generalizing c k with
  | nil => rfl
  | cons i is ih =>
    rw [responsesOfAll, List.length_append, responsesOf_length, ih, generateCount_cons, Nat.add_comm]

/-! ## A run over presented command words (R48) -/

theorem receive_presentWord (w : CommandWord) (s : State) :
    receive (presentWord w) s = .next (after (decodeWord w) s) := exec_eq_after (decodeWord w) s

theorem run_presentWords (ws : List CommandWord) (rest : List HostPorts) (s : State) :
    Sys2Proof.core.run ws.length { s with host := ws.map presentWord ++ rest } =
      .next (afterAll (ws.map decodeWord) { s with host := rest }) := by
  induction ws generalizing s with
  | nil => rfl
  | cons w ws ih =>
    have hstep : step { s with host := presentWord w :: (ws.map presentWord ++ rest) } =
        .next { after (decodeWord w) s with host := ws.map presentWord ++ rest } := by
      rw [step_of_cons _ _ _ rfl, receive_presentWord, ← after_with_host]
    calc Sys2Proof.core.run (ws.length + 1) { s with host := presentWord w :: (ws.map presentWord ++ rest) }
        = Sys2Proof.core.run ws.length { after (decodeWord w) s with host := ws.map presentWord ++ rest } :=
          run_succ_of_next _ _ _ hstep
      _ = .next (afterAll (ws.map decodeWord) { after (decodeWord w) s with host := rest }) := ih _
      _ = .next (afterAll (ws.map decodeWord) (after (decodeWord w) { s with host := rest })) := by
          rw [after_with_host (decodeWord w) s rest]

/-! ## The counter values of a series of draws (R110, R111, R142) -/

@[simp] theorem counterAt_zero (c : Word) : counterAt c 0 = c := by simp [counterAt]

theorem counterAt_succ (c : Word) (n : Nat) : counterAt c (n + 1) = weyl (counterAt c n) := by
  rw [counterAt, counterAt, weyl, add64, BitVec.ofNat_add, add_mul, BitVec.one_mul, add_assoc]

theorem counterAt_weyl (c : Word) (n : Nat) : counterAt (weyl c) n = counterAt c (n + 1) := by
  rw [counterAt, counterAt, weyl, add64, BitVec.ofNat_add, add_mul, BitVec.one_mul, add_assoc, add_comm weylInc]

theorem weylInc_coprime : Nat.Coprime (2 ^ 64) weylInc.toNat :=
  (Nat.coprime_two_left.2 (Nat.odd_iff.2 weylInc_odd)).pow_left 64

theorem ofNat_mul_weylInc_eq_zero_iff (n : Nat) : BitVec.ofNat 64 n * weylInc = 0 ↔ 2 ^ 64 ∣ n := by
  rw [← BitVec.toNat_inj, BitVec.toNat_mul, BitVec.toNat_ofNat, Nat.mod_mul_mod]
  exact (Nat.dvd_iff_mod_eq_zero ..).symm.trans weylInc_coprime.dvd_mul_right

/-- Draws fewer than 2^64 apart use different counter values (R111). -/
theorem counterAt_ne_of_lt (c : Word) {i j : Nat} (hij : i < j) (hlt : j - i < 2 ^ 64) :
    counterAt c i ≠ counterAt c j := by
  intro heq
  obtain ⟨n, rfl⟩ := Nat.exists_eq_add_of_lt hij
  have hzero : BitVec.ofNat 64 (n + 1) * weylInc = 0 := by
    rw [counterAt, counterAt, Nat.add_assoc, BitVec.ofNat_add, add_mul, ← add_assoc] at heq
    exact left_eq_add.1 heq
  have hle := Nat.le_of_dvd n.succ_pos ((ofNat_mul_weylInc_eq_zero_iff _).1 hzero)
  omega

/-- Draws from any counter value reach every other (R111). -/
theorem exists_counterAt_eq (c u : Word) : ∃ n, counterAt c n = u := by
  obtain ⟨m, -, hm⟩ := Nat.exists_mul_mod_eq_one_of_coprime weylInc_coprime.symm (by decide)
  have hinv : BitVec.ofNat 64 m * weylInc = 1 := by
    rw [← BitVec.toNat_inj, BitVec.toNat_mul, BitVec.toNat_ofNat, Nat.mod_mul_mod, Nat.mul_comm, hm]
    rfl
  refine ⟨(u - c).toNat * m, ?_⟩
  calc counterAt c ((u - c).toNat * m)
      = c + (u - c) * (BitVec.ofNat 64 m * weylInc) := by
        rw [counterAt, BitVec.ofNat_mul, BitVec.ofNat_toNat, BitVec.setWidth_eq, mul_assoc]
    _ = u := by rw [hinv]; ring

/-- A function of the counter that is not constant differs somewhere across one advance: else it would be the same along the
draws from one counter value, which reach every other. -/
theorem exists_weyl_ne {α : Type} (f : Word → α) {c u : Word} (h : f c ≠ f u) : ∃ v, f v ≠ f (weyl v) := by
  by_contra! hsame
  have hconst (n : Nat) : f (counterAt c n) = f c := by
    induction n with
    | zero => rw [counterAt_zero]
    | succ n ih => rw [counterAt_succ, ← hsame, ih]
  obtain ⟨n, rfl⟩ := exists_counterAt_eq c u
  exact h (hconst n).symm

/-- Whatever the Weyl increment, two draws in a row can respond differently: the spec's test key answers counters 0 and 1
differently (V40, V41). -/
theorem exists_drawResponse_weyl_ne {d : Instr} (hd : d.isDraw = true) :
    ∃ c k, drawResponse d c k ≠ drawResponse d (weyl c) k := by
  have h : drawResponse d 0 0x548C9DECBCE65297 ≠ drawResponse d 1 0x548C9DECBCE65297 := by
    cases d with
    | next32 | next64 => decide
    | nop | ldctr | ldkey | init | rand32 | rand64 => cases hd
  obtain ⟨c, hc⟩ := exists_weyl_ne (fun c => drawResponse d c 0x548C9DECBCE65297) h
  exact ⟨c, _, hc⟩

/-- What a series of draws does to the whole state: each draw responds from the counter value of its place (R142). -/
theorem afterAll_of_draws {l : List Instr} (hl : l.all Instr.isDraw = true) (s : State) :
    afterAll l s = { s with
      ctr := counterAt s.ctr l.length
      responses := s.responses ++ l.mapIdx (fun i d => drawResponse d (counterAt s.ctr i) s.key) } := by
  induction l generalizing s with
  | nil => simp [afterAll]
  | cons d ds ih =>
    obtain ⟨hd, hds⟩ : d.isDraw = true ∧ ds.all Instr.isDraw = true := by simpa using hl
    rw [afterAll, after_of_draw hd, ih hds]
    simp [List.mapIdx_cons, counterAt_weyl]

/-! ## Orders an arbiter may choose (R50) -/

theorem perm_of_interleaving {α : Type} {xs ys zs : List α} (h : Interleaving xs ys zs) : zs.Perm (xs ++ ys) := by
  induction h with
  | done => exact .nil
  | left x xs ys zs _ ih => exact ih.cons x
  | right y xs ys zs _ ih => exact (ih.cons y).trans List.perm_middle.symm

theorem interleaving_append {α : Type} (xs ys : List α) : Interleaving xs ys (xs ++ ys) := by
  induction xs with
  | nil =>
    induction ys with
    | nil => exact .done
    | cons y ys ih => exact .right y [] ys ys ih
  | cons x xs ih => exact .left x xs ys _ ih

theorem interleaving_symm {α : Type} {xs ys zs : List α} (h : Interleaving xs ys zs) : Interleaving ys xs zs := by
  induction h with
  | done => exact .done
  | left x xs ys zs _ ih => exact .right x ys xs zs ih
  | right y xs ys zs _ ih => exact .left y ys xs zs ih

end Sys2Proof.Laws
end

section
/-! PROOF. The statements of 20_memory.md. -/

namespace Sys2Proof.Proofs

open Sys2Proof.Machine Sys2Proof.Laws

/-- Settles O40. Each draw's two different responses come from `exists_drawResponse_weyl_ne`, since the Weyl increment is open. -/
theorem sideEffectsAndRepetition : Obligations.SideEffectsAndRepetition := by
  refine fun a b s => ⟨rfl, rfl, rfl, rfl, fun i hi => ?pureCommand, fun d hd => ?moves, fun d hd => ?differ⟩
  case pureCommand =>
    obtain ⟨r, hr⟩ := after_of_pure hi
    exact ⟨r, fun u => (exec_eq_after i u).trans (congrArg _ (hr u))⟩
  case moves =>
    refine ⟨after d s, exec_eq_after d s, ?_⟩
    have hne : counterAt s.ctr 0 ≠ counterAt s.ctr 1 := counterAt_ne_of_lt s.ctr (by decide) (by decide)
    rw [counterAt_succ, counterAt_zero] at hne
    rw [after_of_draw hd]
    exact hne.symm
  case differ =>
    obtain ⟨c, k, hne⟩ := exists_drawResponse_weyl_ne hd
    refine ⟨{ s with ctr := c, key := k }, _, _, _, execAll_eq_afterAll _ _, ?_, hne⟩
    simp [afterAll, after_of_draw hd]

/-- Settles O41, by `run_presentWords` (induction on the words presented) and `afterAll_append`. -/
theorem runIsTheFoldOfItsCommands : Obligations.RunIsTheFoldOfItsCommands := by
  refine ⟨fun ws rest s => (run_presentWords ws rest s).trans (execAll_eq_afterAll _ _).symm,
    fun l m s => ⟨afterAll l s, execAll_eq_afterAll l s, ?_⟩⟩
  rw [execAll_eq_afterAll, execAll_eq_afterAll, afterAll_append]

/-- Settles O42: the responses before the n-th generate command's are as many as the generate commands before it. -/
theorem responsesFollowTheGenerateCommands : Obligations.ResponsesFollowTheGenerateCommands := by
  refine ⟨fun i s => ⟨after i s, responsesOf i s.ctr s.key, exec_eq_after i s, after_responses i s,
    responsesOf_length i _ _⟩, fun l m g s hg hs => ?_⟩
  obtain ⟨r, hr⟩ := responsesOf_of_generate hg (afterAll l s).ctr (afterAll l s).key
  have hv : (after g (afterAll l s)).responses = (afterAll l s).responses ++ [r] := by rw [after_responses, hr]
  have hcount (is : List Instr) : (afterAll is s).responses.length = generateCount is := by
    rw [afterAll_responses, hs, List.nil_append, responsesOfAll_length]
  refine ⟨_, _, _, r, execAll_eq_afterAll l s, exec_eq_after g _, hv, execAll_eq_afterAll _ s, ?_, hcount _⟩
  rw [afterAll_append, afterAll, afterAll_responses, hv, ← hcount l]
  simp

/-- Settles O43: an interleaving is a series of as many draws as both requesters have, to which `afterAll_of_draws` applies. -/
theorem requestersInterleaveWholeDraws : Obligations.RequestersInterleaveWholeDraws := by
  refine ⟨fun xs ys zs s hxs hys h => ?_, fun c i j hij hlt => counterAt_ne_of_lt c hij hlt,
    fun xs ys => ⟨interleaving_append xs ys, interleaving_symm (interleaving_append ys xs)⟩⟩
  have hperm := perm_of_interleaving h
  have hdraws : zs.all Instr.isDraw = true := by rw [hperm.all_eq, List.all_append, hxs, hys, Bool.and_self]
  have hlength : zs.length = xs.length + ys.length := hperm.length_eq.trans List.length_append
  rw [execAll_eq_afterAll, afterAll_of_draws hdraws, hlength]

/-- Settles O44: a pure command only adds its response to the record, and the commands after it do not read the record. -/
theorem pureCommandsCommuteWithEverything : Obligations.PureCommandsCommuteWithEverything := by
  intro g hg
  obtain ⟨r, hr⟩ := after_of_pure hg
  refine ⟨r, fun l m s => ?_⟩
  have hl := afterAll_responses l s
  have hm := afterAll_with_responses m (afterAll l s)
  refine ⟨afterAll m (afterAll l s), responsesOfAll l s.ctr s.key,
    responsesOfAll m (afterAll l s).ctr (afterAll l s).key, ?without, ?within, responsesOfAll_length l _ _,
    responsesOfAll_length m _ _⟩
  case without =>
    rw [execAll_eq_afterAll, afterAll_append, ← hl]
    exact congrArg Host.Outcome.next (hm _)
  case within =>
    rw [execAll_eq_afterAll, afterAll_append, afterAll, hr, ← hl]
    exact congrArg Host.Outcome.next (hm _)

end Sys2Proof.Proofs
end

section
/-! SUPPORT. Laws for the family 30_encoding: a decoded command has the opcode and the operands of its triple, which fields each
`op` uses, which command keeps every state, and what the response port signals of one command. -/

namespace Sys2Proof.Laws

open Sys2Proof.Machine

/-! ## The triple a command is decoded from (R67, R70) -/

@[simp] theorem opcode_decode (op : OpField) (a b : Word) : opcode (decode op a b) = op := by
  obtain rfl | rfl | rfl | rfl | rfl | rfl | rfl | rfl := opField_eight op <;> rfl

@[simp] theorem operandA_decode (op : OpField) (a b : Word) :
    operandA (decode op a b) = if opUsesA op then some a else none := by
  obtain rfl | rfl | rfl | rfl | rfl | rfl | rfl | rfl := opField_eight op <;> rfl

@[simp] theorem operandB_decode (op : OpField) (a b : Word) :
    operandB (decode op a b) = if opUsesB op then some b else none := by
  obtain rfl | rfl | rfl | rfl | rfl | rfl | rfl | rfl := opField_eight op <;> rfl

/-- A command is decoded from its opcode and operands, whatever stands in the fields it ignores (R68). -/
theorem decode_opcode (fa fb : Word) (i : Instr) :
    decode (opcode i) ((operandA i).getD fa) ((operandB i).getD fb) = i := by
  cases i <;> simp [decode, opcode, operandA, operandB]

theorem instr_eq_of_fields {i j : Instr} (ho : opcode i = opcode j) (ha : operandA i = operandA j)
    (hb : operandB i = operandB j) : i = j := by
  rw [← decode_opcode 0 0 i, ho, ha, hb, decode_opcode]

theorem decode_eq_nop_iff (op : OpField) (a b : Word) : decode op a b = .nop ↔ op = 0b000 := by
  refine ⟨fun h => ?_, fun h => h ▸ rfl⟩
  rw [← opcode_decode op a b, h, opcode]

/-! ## Which fields an `op` uses (the table of R67) -/

theorem opUsesA_iff (op : OpField) : opUsesA op = true ↔ op ∈ [0b001, 0b011, 0b110, 0b111] := by
  revert op; decide

theorem opUsesA_eq_false_iff (op : OpField) : opUsesA op = false ↔ op ∈ [0b000, 0b010, 0b100, 0b101] := by
  revert op; decide

theorem opUsesB_iff (op : OpField) : opUsesB op = true ↔ op ∈ [0b010, 0b011, 0b110, 0b111] := by
  revert op; decide

theorem opUsesB_eq_false_iff (op : OpField) : opUsesB op = false ↔ op ∈ [0b000, 0b001, 0b100, 0b101] := by
  revert op; decide

theorem decode_congr_a {op : OpField} (h : opUsesA op = false) (a a' b : Word) : decode op a b = decode op a' b :=
  instr_eq_of_fields (by simp) (by simp [h]) (by simp)

theorem decode_congr_b {op : OpField} (h : opUsesB op = false) (a b b' : Word) : decode op a b = decode op a b' :=
  instr_eq_of_fields (by simp) (by simp) (by simp [h])

theorem decode_injective_a {op : OpField} (h : opUsesA op = true) {a a' b : Word}
    (hd : decode op a b = decode op a' b) : a = a' := by
  simpa [h] using congrArg operandA hd

theorem decode_injective_b {op : OpField} (h : opUsesB op = true) {a b b' : Word}
    (hd : decode op a b = decode op a b') : b = b' := by
  simpa [h] using congrArg operandB hd

/-! ## Commands that leave a state as it is (R72, R75) -/

theorem loadKey_eq_self_iff (b : Word) (s : State) : s.loadKey b = s ↔ s.key = b :=
  ⟨fun h => (congrArg State.key h).symm, fun h => h ▸ rfl⟩

/-- Loading the counter alone is the construct command exactly where the key is already held (R75). -/
theorem exec_ldctr_eq_exec_init_iff (c k : Word) (s : State) :
    exec (.ldctr c) s = exec (.init c k) s ↔ s.key = k := by
  rw [exec_eq_after, exec_eq_after, Host.Outcome.next.injEq, eq_comm]
  exact loadKey_eq_self_iff k (s.loadCtr c)

theorem after_ne_self_of_generate {i : Instr} (hg : i.isGenerate = true) (s : State) : after i s ≠ s := by
  intro h
  obtain ⟨r, hr⟩ := responsesOf_of_generate hg s.ctr s.key
  have hresponses := congrArg State.responses h
  rw [after_responses, hr] at hresponses
  simp at hresponses

/-- `NOP` alone keeps every state: a load of the counter shows in an unloaded state, a load of the key in one that holds
another key, a generate command in every state (R72). -/
theorem forall_after_eq_self_iff (i : Instr) : (∀ s, after i s = s) ↔ i = .nop := by
  refine ⟨fun h => ?_, fun hi s => hi ▸ rfl⟩
  cases i with
  | nop => rfl
  | ldctr | init => cases (after_loaded _ State.reset).symm.trans (congrArg State.loaded (h State.reset))
  | ldkey b =>
    have hkey (k : Word) : k = b := (loadKey_eq_self_iff b _).1 (h { State.reset with key := k })
    exact absurd ((hkey 0).trans (hkey 1).symm) (by decide)
  | next32 | next64 | rand32 | rand64 => exact absurd (h State.reset) (after_ne_self_of_generate rfl _)

/-! ## The responses of one command (R64) -/

theorem w64_of_mem_responsesOf {i : Instr} {c k : Word} {r : Response} (hr : r ∈ responsesOf i c k) :
    r.w64 = (opcode i).getLsbD 0 := by
  cases i with
  | nop | ldctr | ldkey | init => cases hr
  | next32 | next64 | rand32 | rand64 => rw [List.mem_singleton.1 hr, opcode]; rfl

theorem hi32_data_of_mem_responsesOf {i : Instr} {c k : Word} {r : Response} (hr : r ∈ responsesOf i c k)
    (hw : r.w64 = false) : hi32 r.data = 0 := by
  cases i with
  | nop | ldctr | ldkey | init => cases hr
  | next32 | rand32 => rw [List.mem_singleton.1 hr]; exact hi32_zext64 _
  | next64 | rand64 => rw [List.mem_singleton.1 hr] at hw; cases hw

/-- The port signals, over a command, the response the command adds to the record. -/
theorem responsePort_after (i : Instr) (s : State) :
    responsePort s (after i s) = (responsesOf i s.ctr s.key).head? := by
  rw [responsePort, if_pos (after_resets i s), after_responses, List.getElem?_append_right (Nat.le_refl _), Nat.sub_self,
    List.head?_eq_getElem?]

end Sys2Proof.Laws
end

section
/-! PROOF. The statements of 30_encoding.md. -/

namespace Sys2Proof.Proofs

open Sys2Proof.Machine Sys2Proof.Laws

/-- Settles O5: only `NOP` keeps every state, and only `op` 000 decodes to it. -/
theorem everyWordIsLegalAndOnlyNopIdles : Obligations.EveryWordIsLegalAndOnlyNopIdles := by
  refine ⟨fun w s => ⟨_, exec_eq_after _ s⟩, fun w => ?_⟩
  calc (∀ s, exec (decodeWord w) s = .next s)
      ↔ ∀ s, after (decodeWord w) s = s := by simp only [exec_eq_after, Host.Outcome.next.injEq]
    _ ↔ decodeWord w = .nop := forall_after_eq_self_iff _
    _ ↔ opField w = 0b000 := decode_eq_nop_iff _ _ _

/-- Settles O2: each row is `exec_eq_after` of the command its `op` decodes to. -/
theorem opcodeMapGivesEffects : Obligations.OpcodeMapGivesEffects := fun a b s =>
  ⟨exec_eq_after .nop s, exec_eq_after (.ldctr a) s, exec_eq_after (.ldkey b) s, exec_eq_after (.init a b) s,
    exec_eq_after .next32 s, exec_eq_after .next64 s, exec_eq_after (.rand32 a b) s, exec_eq_after (.rand64 a b) s⟩

/-- Settles O3: an ignored field does not reach the decoded command, and a used one is an operand of it. -/
theorem ignoredFieldsHaveNoEffect : Obligations.IgnoredFieldsHaveNoEffect := by
  refine ⟨fun op a a' b hop s => ?ignoresA, fun op a b b' hop s => ?ignoresB, fun op a a' b hop hne hd => ?usesA,
    fun op a b b' hop hne hd => ?usesB, fun a b s => ⟨?ldctr, ?ldkey, ?init, ?rand32, ?rand64⟩⟩
  case ignoresA => rw [decode_congr_a ((opUsesA_eq_false_iff op).2 hop) a a' b]
  case ignoresB => rw [decode_congr_b ((opUsesB_eq_false_iff op).2 hop) a b b']
  case usesA => exact hne (decode_injective_a ((opUsesA_iff op).2 hop) hd)
  case usesB => exact hne (decode_injective_b ((opUsesB_iff op).2 hop) hd)
  case ldctr => exact ⟨_, exec_eq_after (.ldctr a) s, after_ctr _ s⟩
  case ldkey => exact ⟨_, exec_eq_after (.ldkey b) s, after_key _ s⟩
  case init => exact ⟨_, exec_eq_after (.init a b) s, after_ctr _ s, after_key _ s⟩
  case rand32 => exact ⟨_, exec_eq_after (.rand32 a b) s, after_responses _ s⟩
  case rand64 => exact ⟨_, exec_eq_after (.rand64 a b) s, after_responses _ s⟩

/-- Settles O9: the expansions are the table of R75, and `NEW c` is compared by `exec_ldctr_eq_exec_init_iff`. -/
theorem aliasesExpandOneForOne : Obligations.AliasesExpandOneForOne := fun c _ =>
  ⟨rfl, rfl, rfl, rfl, rfl, rfl, fun s => exec_ldctr_eq_exec_init_iff c defaultKey s⟩

/-- Settles O50: the port signals the head of `responsesOf`, which is empty or one response of the command's width. -/
theorem responsesHaveTheirForm : Obligations.ResponsesHaveTheirForm := by
  refine ⟨fun v s => ⟨rfl, lo32_zext64 v, hi32_zext64 v⟩, fun v s => rfl, fun i s hg => ?none, fun i s hg => ?one⟩
  case none =>
    have hr := responsesOf_of_not_generate hg s.ctr s.key
    refine ⟨after i s, exec_eq_after i s, ?_, ?_⟩
    · rw [after_responses, hr, List.append_nil]
    · rw [responsePort_after, hr, List.head?_nil]
  case one =>
    obtain ⟨r, hr⟩ := responsesOf_of_generate hg s.ctr s.key
    have hmem : r ∈ responsesOf i s.ctr s.key := by rw [hr]; exact List.mem_singleton_self r
    refine ⟨after i s, r, exec_eq_after i s, ?_, ?_, w64_of_mem_responsesOf hmem, hi32_data_of_mem_responsesOf hmem⟩
    · rw [after_responses, hr]
    · rw [responsePort_after, hr, List.head?_cons]

end Sys2Proof.Proofs
end

section
/-! SUPPORT. Laws for the family 40_datapath: products and sums as integers, the halves under the rotation and under both right
shifts, the bits of an exclusive or, and the response of a generate command by the bits of its `op`. -/

namespace Sys2Proof.Laws

open Sys2Proof.Machine

/-! ## The multiplier and the adder (R91, R92) -/

theorem mul64_toNat (a b : Word) : (mul64 a b).toNat = a.toNat * b.toNat % 2 ^ 64 := BitVec.toNat_mul a b

/-- Reading the operands as signed gives the same low 64 bits of the product. -/
theorem mul64_eq_ofInt (a b : Word) : mul64 a b = BitVec.ofInt 64 (a.toInt * b.toInt) := by
  rw [BitVec.ofInt_mul, BitVec.ofInt_toInt, BitVec.ofInt_toInt, mul64]

theorem add64_toNat (p q : Word) : (add64 p q).toNat = (p.toNat + q.toNat) % 2 ^ 64 := BitVec.toNat_add p q

/-! ## The rotation by 32 (R94) -/

@[simp] theorem hi32_rot32 (v : Word) : hi32 (rot32 v) = lo32 v := hi32_append _ _

@[simp] theorem lo32_rot32 (v : Word) : lo32 (rot32 v) = hi32 v := lo32_append _ _

theorem rot32_toNat (v : Word) : (rot32 v).toNat = v.toNat % 2 ^ 32 * 2 ^ 32 + v.toNat / 2 ^ 32 := by
  rw [rot32, append_toNat, lo32_toNat, hi32_toNat]

theorem rot32_eq_rotateLeft (v : Word) : rot32 v = v.rotateLeft 32 := by
  have hlt := v.isLt
  have hlow : v.toNat <<< 32 % 2 ^ 64 = (v.toNat % 2 ^ 32) <<< 32 := by
    rw [Nat.shiftLeft_eq, Nat.shiftLeft_eq]
    omega
  have hhigh : v.toNat / 2 ^ 32 < 2 ^ 32 := by omega
  apply BitVec.eq_of_toNat_eq
  rw [rot32_toNat, BitVec.toNat_rotateLeft, Nat.mod_eq_of_lt (by decide : 32 < 64), hlow, Nat.shiftRight_eq_div_pow,
    ← Nat.shiftLeft_add_eq_or_of_lt hhigh, Nat.shiftLeft_eq]

/-- Half of 64 to the left is half of 64 to the right: the two rotations join the same two shifts. -/
theorem rotateLeft_32_eq_rotateRight_32 (v : Word) : v.rotateLeft 32 = v.rotateRight 32 := BitVec.or_comm _ _

/-! ## The two right shifts by 32 (R96, R98) -/

theorem zext64_hi32 (v : Word) : zext64 (hi32 v) = v >>> 32 := by
  apply BitVec.eq_of_toNat_eq
  rw [BitVec.toNat_ushiftRight, Nat.shiftRight_eq_div_pow, ← hi32_toNat]
  exact BitVec.toNat_setWidth_of_le (by decide)

@[simp] theorem lo32_sshiftRight_32 (v : Word) : lo32 (v.sshiftRight 32) = hi32 v := by
  ext i hi
  have hi64 : ¬ 64 ≤ i := by omega
  rw [lo32, hi32, BitVec.getElem_extractLsb', BitVec.getElem_extractLsb', Nat.zero_add, BitVec.getLsbD_sshiftRight,
    if_pos (by omega)]
  simp [hi64]

/-- A sign-filling shift fills the high half with bit 63. -/
theorem hi32_sshiftRight_32 (v : Word) : hi32 (v.sshiftRight 32) = if v.getLsbD 63 then BitVec.allOnes 32 else 0 := by
  ext i hi
  have hi64 : ¬ 64 ≤ 32 + i := by omega
  rw [hi32, BitVec.getElem_extractLsb', BitVec.getLsbD_sshiftRight, if_neg (by omega), BitVec.msb_eq_getLsbD_last]
  cases v.getLsbD 63 with
  | false => simp
  | true => rw [if_pos rfl, BitVec.getElem_allOnes]; simp [hi64]

theorem zext64_hi32_eq_sshiftRight_iff (v : Word) :
    zext64 (hi32 v) = v.sshiftRight 32 ↔ v.getLsbD 63 = false := by
  refine ⟨fun h => ?_, fun h => eq_of_halves ?_ ?_⟩
  · have hhigh := congrArg hi32 h
    rw [hi32_zext64, hi32_sshiftRight_32] at hhigh
    cases hv : v.getLsbD 63 with
    | false => rfl
    | true => rw [hv] at hhigh; exact absurd hhigh (by decide)
  · rw [hi32_zext64, hi32_sshiftRight_32, h]; rfl
  · rw [lo32_zext64, lo32_sshiftRight_32]

/-- Where bit 63 is 1, the term of a sign-filling shift inverts the high half it is exclusive-ored with. -/
theorem hi32_xor64_sshiftRight_of_sign {v : Word} (hv : v.getLsbD 63 = true) (p : Word) :
    hi32 (xor64 p (v.sshiftRight 32)) = ~~~ hi32 p := by
  rw [hi32_xor64, hi32_sshiftRight_32, if_pos hv, BitVec.xor_allOnes]

/-! ## Exclusive or (R97) -/

theorem xor64_getLsbD_toNat (p q : Word) (i : Nat) :
    ((xor64 p q).getLsbD i).toNat = ((p.getLsbD i).toNat + (q.getLsbD i).toNat) % 2 := by
  rw [xor64, BitVec.getLsbD_xor]
  cases p.getLsbD i <;> cases q.getLsbD i <;> rfl

theorem hi32_eq_zero_of_lt {q : Word} (hq : q.toNat < 2 ^ 32) : hi32 q = 0 :=
  BitVec.eq_of_toNat_eq ((hi32_toNat q).trans (Nat.div_eq_of_lt hq))

/-- An operand without a high half leaves the other's. -/
theorem hi32_xor64_of_hi32_eq_zero {q : Word} (hq : hi32 q = 0) (p : Word) : hi32 (xor64 p q) = hi32 p := by
  rw [hi32_xor64, hq]
  exact BitVec.xor_zero

/-! ## The wide output and the response of a generate command (R104, R105, R71) -/

/-- The high half of the wide output is the high half of the round-4 sum: the other term has none. -/
theorem hi32_squares64 (c k : Word) : hi32 (squares64 c k) = hi32 (trace c k).s4 :=
  hi32_xor64_of_hi32_eq_zero (hi32_zext64 _) _

theorem op_generate_cases {op : OpField} (hop : op.getLsbD 2 = true) :
    op = 0b100 ∨ op = 0b101 ∨ op = 0b110 ∨ op = 0b111 := by
  revert op; decide

/-- `op[2]` set is a generate command: `op[1]` says whose counter and key, `op[0]` the width of the response. -/
theorem responsesOf_decode {op : OpField} (hop : op.getLsbD 2 = true) (a b c k : Word) :
    responsesOf (decode op a b) c k = [{
      w64 := op.getLsbD 0
      data := outputSelector (op.getLsbD 0)
        (trace (if op.getLsbD 1 then a else c) (if op.getLsbD 1 then b else k)) }] := by
  obtain rfl | rfl | rfl | rfl := op_generate_cases hop <;> rfl

/-! ## The Weyl increment (R7, R110) -/

theorem weylIncOk_iff (inc : Word) : weylIncOk inc = true ↔ inc.toNat % 2 = 1 := by
  rw [weylIncOk, BitVec.getLsbD, Nat.testBit_zero, decide_eq_true_iff]

end Sys2Proof.Laws
end

section
/-! PROOF. The statements of 40_datapath.md. -/

namespace Sys2Proof.Proofs

open Sys2Proof.Machine Sys2Proof.Laws

/-- Settles O12, by the halves and the integer formula of `rot32`. -/
theorem rotateBy32SwapsTheHalves : Obligations.RotateBy32SwapsTheHalves :=
  ⟨fun v => ⟨rot32_toNat v, hi32_rot32 v, lo32_rot32 v, rot32_eq_rotateLeft v,
    (rot32_eq_rotateLeft v).trans (rotateLeft_32_eq_rotateRight_32 v)⟩, by decide⟩

/-- Settles O15: an operand below 2^32 has no high half to exclusive-or with. -/
theorem xorIsBitwise : Obligations.XorIsBitwise :=
  ⟨fun p q i _ => xor64_getLsbD_toNat p q i, fun p _ hq => hi32_xor64_of_hi32_eq_zero (hi32_eq_zero_of_lt hq) p⟩

/-- Settles O16: the two shifts have the same low half, and the sign-filling one has bit 63 all over its high half. -/
theorem signFillWouldInvertTheHighHalf : Obligations.SignFillWouldInvertTheHighHalf := by
  refine ⟨fun c k => ⟨rfl, hi32_zext64 _, ?same, fun hs => ?inverts, lo32_sshiftRight_32 _⟩, by decide⟩
  case same => exact (BitVec.xor_right_inj _).trans (zext64_hi32_eq_sshiftRight_iff _)
  case inverts => rw [hi32_squares64]; exact hi32_xor64_sshiftRight_of_sign hs _

/-- Settles O25: one draw is `after_of_draw`, a series of them `afterAll_of_draws`. -/
theorem weylAdvancesTheCounterOncePerDraw : Obligations.WeylAdvancesTheCounterOncePerDraw := by
  refine ⟨fun v => rfl, (weylIncOk_iff weylInc).2 weylInc_odd, fun i s hi => ?draw, fun l s hl => ?draws, by decide⟩
  case draw => exact ⟨_, (exec_eq_after i s).trans (congrArg _ (after_of_draw hi s)), rfl, rfl⟩
  case draws => exact ⟨_, (execAll_eq_afterAll l s).trans (congrArg _ (afterAll_of_draws hl s)), rfl⟩

/-- Settles O10, by the product as an integer, unsigned and signed. -/
theorem multiplyKeepsTheLow64Bits : Obligations.MultiplyKeepsTheLow64Bits :=
  ⟨fun a b => ⟨mul64_toNat a b, mul64_eq_ofInt a b, BitVec.mul_zero, BitVec.mul_one a, rfl⟩, by decide⟩

/-- Settles O11, by the sum as an integer. -/
theorem addDropsTheCarry : Obligations.AddDropsTheCarry :=
  ⟨fun p q => ⟨add64_toNat p q, BitVec.add_zero p⟩, by decide⟩

/-- Settles O14, by the high half as an integer and as a logical shift. -/
theorem highHalfIsALogicalShift : Obligations.HighHalfIsALogicalShift :=
  ⟨fun v => ⟨hi32_toNat v, zext64_hi32 v⟩, by decide⟩

/-- Settles O18: the sums and rotations are the fields of `trace`; the example is evaluated. -/
theorem roundsAlternateTheAddends : Obligations.RoundsAlternateTheAddends :=
  ⟨fun _ _ => ⟨rfl, rfl⟩, fun _ _ => ⟨rfl, rfl, rfl, rfl, rfl, rfl, rfl, rfl, rfl, rfl, rfl⟩, by decide⟩

/-- Settles O19: a generate command responds with the selector's value, by `responsesOf_decode`. -/
theorem outputSelectorForms : Obligations.OutputSelectorForms := by
  refine ⟨fun t => ⟨rfl, rfl, fun v => rfl⟩, fun op a b s hop => ⟨_, exec_eq_after _ s, ?_⟩⟩
  rw [after_responses, responsesOf_decode hop]

/-- Settles O20: the pseudocode is the body of `trace` up to the round-4 sum; the examples are evaluated. -/
theorem squares32IsThePseudocode : Obligations.Squares32IsThePseudocode :=
  ⟨fun _ _ => rfl, by decide⟩

/-- Settles O21: the pseudocode is the body of `trace`, `t` its round-4 sum; the examples are evaluated. -/
theorem squares64IsThePseudocode : Obligations.Squares64IsThePseudocode :=
  ⟨fun _ _ => rfl, by decide⟩

end Sys2Proof.Proofs
end

section
/-! SUPPORT. Laws for the family 41_construct: a sequence without key loads keeps the key, a draw with key 0 responds 0, a command
keeps the loaded mark, one advance from the largest counter value, and samples with and without a command. -/

namespace Sys2Proof.Laws

open Sys2Proof.Machine

/-! ## The key along a sequence, and draws with key 0 (R122) -/

theorem keyAfterAll_of_no_keyLoad {l : List Instr} (hl : l.any Instr.loadsKey = false) (k : Word) :
    keyAfterAll l k = k := by
  induction l generalizing k with
  | nil => rfl
  | cons i is ih =>
    obtain ⟨hi, his⟩ : i.loadsKey = false ∧ is.any Instr.loadsKey = false := by simpa using hl
    rw [keyAfterAll, keyAfter_of_not_loadsKey hi, ih his]

/-- With key 0 the counter does not enter the pipeline: `y` is the product with the key. -/
theorem trace_zero_key (c : Word) : trace c 0 = trace 0 0 := by
  have hy : mul64 c 0 = mul64 0 0 := BitVec.mul_zero
  rw [trace, hy, ← trace]

theorem drawResponse_zero_key_data (d : Instr) (c : Word) : (drawResponse d c 0).data = 0 := by
  rw [drawResponse]
  split
  · rw [wideResponse, squares64, trace_zero_key]; rfl
  · rw [narrowResponse, squares32, trace_zero_key]; rfl

/-! ## The counter: its loaded mark (R124) and its wrap (R121) -/

theorem after_keeps_loaded {s : State} (hs : s.loaded = true) (i : Instr) : (after i s).loaded = true := by
  rw [after_loaded, hs, Bool.true_or]

/-- The largest counter value is -1 modulo 2^64, so an advance from it wraps to one less than the increment. -/
theorem weyl_largest : weyl 0xFFFFFFFFFFFFFFFF = weylInc - 1 :=
  calc weyl 0xFFFFFFFFFFFFFFFF
      = -1 + weylInc := rfl
    _ = weylInc - 1 := neg_add_eq_sub 1 weylInc

/-! ## Samples that do not reset (R63) -/

theorem receive_of_command {p : HostPorts} (hr : p.rst = false) (hv : p.cmdValid = true) (s : State) :
    receive p s = .next (after (decode p.cmdOp p.cmdA p.cmdB) s) := by
  obtain ⟨hr', -⟩ | ⟨-, -, e⟩ | ⟨-, hv', -⟩ := receive_cases p s
  · cases hr.symm.trans hr'
  · exact e
  · cases hv.symm.trans hv'

theorem receive_of_idle {p : HostPorts} (hr : p.rst = false) (hv : p.cmdValid = false) (s : State) :
    receive p s = .next s := by
  obtain ⟨hr', -⟩ | ⟨-, hv', -⟩ | ⟨-, -, e⟩ := receive_cases p s
  · cases hr.symm.trans hr'
  · cases hv.symm.trans hv'
  · exact e

end Sys2Proof.Laws
end

section
/-! PROOF. The statements of 41_construct.md. -/

namespace Sys2Proof.Proofs

open Sys2Proof.Machine Sys2Proof.Laws

/-- Settles O29: the key is still 0 at the draw (`keyAfterAll_of_no_keyLoad`), and then the response is 0. -/
theorem ldkeyLoadsTheKey : Obligations.LdkeyLoadsTheKey := by
  refine fun a b s => ⟨rfl, exec_eq_after (.ldkey b) s, fun l m d hl hd => ?_⟩
  have hkey : (afterAll (.ldkey 0 :: l) s).key = 0 := by
    rw [afterAll_key]
    exact keyAfterAll_of_no_keyLoad hl 0
  refine ⟨_, _, _, execAll_eq_afterAll _ s, exec_eq_after d _, congrArg State.responses (after_of_draw hd _),
    ?data, ?goesOn⟩
  case data =>
    rw [hkey]
    exact drawResponse_zero_key_data d _
  case goesOn => rw [execAll_eq_afterAll, execAll_eq_afterAll, afterAll_append, afterAll]

/-- Settles O31: of the cases of a step only the reset leaves the counter unloaded. -/
theorem onlyResetUnloadsTheCounter : Obligations.OnlyResetUnloadsTheCounter := by
  refine ⟨fun i s t hs ht => ?command, fun s t hs ht hu => ?step⟩
  case command =>
    cases (exec_eq_after i s).symm.trans ht
    exact after_keeps_loaded hs i
  case step =>
    obtain ⟨-, e⟩ | ⟨p, rest, hhost, ⟨hrst, -⟩ | ⟨-, -, e⟩ | ⟨-, -, e⟩⟩ := step_cases s
    case inr.inl => exact ⟨p, rest, hhost, hrst⟩
    all_goals
      cases e.symm.trans ht
      simp [hs] at hu

/-- Settles O27: `NOP` hands every state on, and a sample that presents it leaves what an idle sample leaves. -/
theorem nopDoesNothing : Obligations.NopDoesNothing := by
  refine fun a b s => ⟨rfl, exec_eq_after .nop s, fun d e _ _ => ?between, fun rest => ?idle⟩
  case between => exact (execAll_eq_afterAll [d, .nop, e] s).trans (execAll_eq_afterAll [d, e] s).symm
  case idle =>
    rw [step_of_cons _ _ rest rfl, step_of_cons _ _ rest rfl, receive_of_command rfl rfl, receive_of_idle rfl rfl,
      (decode_eq_nop_iff _ a b).2 rfl, after]

/-- Settles O28: the draw advances the loaded counter once, by `weyl_largest`. -/
theorem ldctrLoadsTheCounter : Obligations.LdctrLoadsTheCounter := by
  refine fun a b s => ⟨rfl, exec_eq_after (.ldctr a) s, exec_eq_after (.ldctr s.ctr) s, fun d hd => ?wraps⟩
  refine ⟨_, execAll_eq_afterAll _ s, ?_⟩
  calc (afterAll [.ldctr 0xFFFFFFFFFFFFFFFF, d] s).ctr
      = weyl 0xFFFFFFFFFFFFFFFF := congrArg State.ctr (after_of_draw hd _)
    _ = weylInc - 1 := weyl_largest

end Sys2Proof.Proofs
end

section
/-! SUPPORT. Laws for the family 42_pure: the pure functions under a zero key, the narrow output inside the wide one, and two
responses in a row. -/

namespace Sys2Proof.Laws

open Sys2Proof.Machine

@[simp] theorem squares32_zero_key (c : Word) : squares32 c 0 = 0 := by
  rw [squares32, trace_zero_key]; rfl

@[simp] theorem squares64_zero_key (c : Word) : squares64 c 0 = 0 := by
  rw [squares64, trace_zero_key]; rfl

/-- The narrow output is the high half of the wide one (R109): both are the high half of the round-4 sum. -/
theorem hi32_squares64_eq_squares32 (c k : Word) : hi32 (squares64 c k) = squares32 c k :=
  calc hi32 (squares64 c k)
      = hi32 (trace c k).s4 := hi32_squares64 c k
    _ = squares32 c k := rfl

theorem emit_emit (q r : Response) (s : State) :
    (s.emit q).emit r = { s with responses := s.responses ++ [q, r] } :=
  congrArg (fun l => { s with responses := l }) (List.append_assoc s.responses [q] [r])

end Sys2Proof.Laws
end

section
/-! PROOF. The statements of 42_pure.md. -/

namespace Sys2Proof.Proofs

open Sys2Proof.Machine Sys2Proof.Laws

/-- Settles O33: one command is `exec_eq_after`, two are `emit_emit`; the values are those of `squares32`, and the example is
evaluated. -/
theorem rand32Responds : Obligations.Rand32Responds := by
  refine ⟨fun a b s => ⟨rfl, exec_eq_after (.rand32 a b) s, squares32_zero_key a,
    (hi32_squares64_eq_squares32 a b).symm, ?twice⟩, by decide⟩
  case twice =>
    calc execAll [.rand32 a b, .rand32 a b] s
        = .next ((s.emit (narrowResponse a b)).emit (narrowResponse a b)) := execAll_eq_afterAll _ s
      _ = .next { s with responses := s.responses ++ [narrowResponse a b, narrowResponse a b] } :=
          congrArg _ (emit_emit _ _ s)

/-- Settles O34, by `exec_eq_after` and the values of `squares64`; the examples are evaluated. -/
theorem rand64Responds : Obligations.Rand64Responds :=
  ⟨fun a b s => ⟨rfl, exec_eq_after (.rand64 a b) s, squares64_zero_key a, hi32_squares64_eq_squares32 a b⟩, by decide⟩

end Sys2Proof.Proofs
end

section
/-! SUPPORT. Laws for the family 43_instance: the counter after a sequence that does not load it, and after a load somewhere in a
sequence. -/

namespace Sys2Proof.Laws

open Sys2Proof.Machine

/-! ## The counter along a sequence: one advance per draw, and a new count from each load (R142) -/

theorem ctrAfter_of_draw {d : Instr} (hd : d.isDraw = true) (c : Word) : ctrAfter d c = weyl c := by
  cases d with
  | next32 | next64 => rfl
  | nop | ldctr | ldkey | init | rand32 | rand64 => cases hd

theorem ctrAfterAll_of_no_ctrLoad {l : List Instr} (hl : l.any Instr.loadsCtr = false) (c : Word) :
    ctrAfterAll l c = counterAt c (drawCount l) := by
  induction l generalizing c with
  | nil => exact (counterAt_zero c).symm
  | cons i is ih =>
    obtain ⟨hi, his⟩ : i.loadsCtr = false ∧ is.any Instr.loadsCtr = false := by simpa using hl
    rw [ctrAfterAll, ih his, drawCount, drawCount]
    cases hd : i.isDraw with
    | true => rw [ctrAfter_of_draw hd, counterAt_weyl, List.countP_cons_of_pos hd]
    | false => rw [ctrAfter_of_not_writes hd hi, List.countP_cons_of_neg (ne_true_of_eq_false hd)]

theorem afterAll_ctr_of_no_ctrLoad {l : List Instr} (hl : l.any Instr.loadsCtr = false) (s : State) :
    (afterAll l s).ctr = counterAt s.ctr (drawCount l) :=
  (afterAll_ctr l s).trans (ctrAfterAll_of_no_ctrLoad hl s.ctr)

/-- A command that leaves `c` in the counter whatever it finds there makes the commands before it irrelevant. -/
theorem afterAll_ctr_of_load_within {i : Instr} {c : Word} (hi : ∀ v, ctrAfter i v = c) (l : List Instr) {m : List Instr}
    (hm : m.any Instr.loadsCtr = false) (s : State) :
    (afterAll (l ++ i :: m) s).ctr = counterAt c (drawCount m) := by
  rw [afterAll_append, afterAll, afterAll_ctr_of_no_ctrLoad hm, after_ctr, hi]

end Sys2Proof.Laws
end

section
/-! PROOF. The statement of 43_instance.md. -/

namespace Sys2Proof.Proofs

open Sys2Proof.Machine Sys2Proof.Laws

/-- Settles O38, by `ctrAfterAll_of_no_ctrLoad` (induction on the sequence); a draw responds from the counter it finds, and a
load restarts the count (`afterAll_ctr_of_load_within`). The rule's numbers are evaluated. -/
theorem counterAfterAnySequence : Obligations.CounterAfterAnySequence := by
  refine ⟨fun l s hl => ?ends, fun l m d s hl hd => ?draw, fun l m c k s hm => ⟨?ldctr, ?init⟩, by decide⟩
  case ends => exact ⟨_, execAll_eq_afterAll l s, afterAll_ctr_of_no_ctrLoad hl s⟩
  case draw =>
    have hctr : (afterAll l s).ctr = counterAt s.ctr (drawCount l) := afterAll_ctr_of_no_ctrLoad hl s
    refine ⟨_, _, execAll_eq_afterAll l s, exec_eq_after d _, hctr, ?responds, ?goesOn⟩
    case responds => rw [after_of_draw hd, hctr, counterAt]
    case goesOn => rw [execAll_eq_afterAll, execAll_eq_afterAll, afterAll_append, afterAll]
  case ldctr => exact ⟨_, execAll_eq_afterAll _ s, afterAll_ctr_of_load_within (fun _ => rfl) l hm s⟩
  case init => exact ⟨_, execAll_eq_afterAll _ s, afterAll_ctr_of_load_within (fun _ => rfl) l hm s⟩

end Sys2Proof.Proofs
end

section
/-! SUPPORT. Laws for the family 60_exceptions: a run of any length answers a next state. -/

namespace Sys2Proof.Laws

open Sys2Proof.Machine

/-- Every run answers a next state, since each of its steps does (`step_next`). -/
theorem run_next (n : Nat) (s : State) : ∃ t, Sys2Proof.core.run n s = .next t := by
  induction n generalizing s with
  | zero => exact ⟨s, run_zero s⟩
  | succ n ih =>
    obtain ⟨t, hstep⟩ := step_next s
    obtain ⟨u, hrun⟩ := ih t
    exact ⟨u, (run_succ_of_next n s t hstep).trans hrun⟩

end Sys2Proof.Laws
end

section
/-! PROOF. The statement of 60_exceptions.md. -/

namespace Sys2Proof.Proofs

open Sys2Proof.Machine Sys2Proof.Laws

/-- Settles O55: a command answers the state `after` gives it, and a run is `run_next` (induction on the number of steps). -/
theorem nothingEverFaults : Obligations.NothingEverFaults :=
  ⟨fun i s => ⟨after i s, exec_eq_after i s⟩, run_next⟩

end Sys2Proof.Proofs
end

section
/-! SUPPORT. Laws for the family 70_reset_and_hazards: the step of a sample that resets, and a command under another loaded
mark. -/

namespace Sys2Proof.Laws

open Sys2Proof.Machine

/-- A sample with `rst = 1` resets, whatever command it carries and whatever the state (R170). -/
theorem step_of_rst {s : State} {p : HostPorts} {rest : List HostPorts} (hs : s.host = p :: rest) (hr : p.rst = true) :
    step s = .next ({ s with host := rest } : State).applyReset :=
  (step_of_cons s p rest hs).trans (receive_of_rst hr _)

/-- No command reads the loaded mark (R171): two of them set it, the others carry any mark through. -/
theorem after_with_loaded (i : Instr) (s : State) (m : Bool) :
    after i { s with loaded := m } = { after i s with loaded := m || i.loadsCtr } := by
  cases i with
  | ldctr | init =>
    rw [Instr.loadsCtr, Bool.or_true]
    rfl
  | nop | ldkey | next32 | next64 | rand32 | rand64 =>
    rw [Instr.loadsCtr, Bool.or_false]
    rfl

end Sys2Proof.Laws
end

section
/-! PROOF. The statements of 70_reset_and_hazards.md. -/

namespace Sys2Proof.Proofs

open Sys2Proof.Machine Sys2Proof.Laws

/-- Settles O32: a reset clears the mark (`step_of_rst`), and a command carries any mark through (`after_with_loaded`). -/
theorem loadedMarkIsAGhost : Obligations.LoadedMarkIsAGhost := by
  refine ⟨State.powerUp_loaded _, fun s p rest hs hr => ?reset, fun i s => ?command, fun i s m => ?otherMark⟩
  case reset => exact ⟨_, step_of_rst hs hr, State.applyReset_loaded _⟩
  case command => exact ⟨_, exec_eq_after i s, after_loaded i s⟩
  case otherMark =>
    exact ⟨_, exec_eq_after i s, (exec_eq_after i _).trans (congrArg _ (after_with_loaded i s m))⟩

/-- Settles O53, by the fields of the power-up state and of `applyReset`, the whole step of a reset (`step_of_rst`). -/
theorem resetEventFromAnyState : Obligations.ResetEventFromAnyState := by
  refine ⟨⟨State.powerUp_key _, State.powerUp_loaded _, State.powerUp_responses _⟩, fun s p rest hs hr => ?reset⟩
  case reset =>
    exact ⟨_, step_of_rst hs hr, State.applyReset_key _, State.applyReset_loaded _, State.applyReset_responses _,
      State.applyReset_host _, rfl⟩

end Sys2Proof.Proofs
end

section
/-! SUPPORT. Laws for the statements across families: a command word and its command undo each other, the whole state after a
decoded triple's command, and the invariant of narrow responses. -/

namespace Sys2Proof.Laws

open Sys2Proof.Machine

/-! ## A command word and its command (R66, R68, R70) -/

theorem decodeWord_encodeWith (fa fb : Word) (i : Instr) : decodeWord (encodeWith fa fb i) = i := by
  rw [decodeWord, encodeWith, opField_packWord, aField_packWord, bField_packWord, decode_opcode]

/-- A decoded command's operand is the field's value, so a filler of that value restores the field where it is ignored. -/
theorem operandA_decode_getD (op : OpField) (a b : Word) : (operandA (decode op a b)).getD a = a := by
  rw [operandA_decode]
  split <;> rfl

theorem operandB_decode_getD (op : OpField) (a b : Word) : (operandB (decode op a b)).getD b = b := by
  rw [operandB_decode]
  split <;> rfl

theorem encodeWith_fields_decodeWord (w : CommandWord) : encodeWith (aField w) (bField w) (decodeWord w) = w := by
  rw [encodeWith, decodeWord, opcode_decode, operandA_decode_getD, operandB_decode_getD, packWord_fields]

/-! ## The whole state after a command, and after a triple by the bits of its `op` (R71) -/

theorem op_construct_cases {op : OpField} (hop : op.getLsbD 2 = false) :
    op = 0b000 ∨ op = 0b001 ∨ op = 0b010 ∨ op = 0b011 := by
  revert op; decide

/-- `op[2]` set: the response of `responsesOf_decode`, and the advance where `op[1]` takes the operands from the registers. -/
theorem after_decode_of_generate {op : OpField} (hop : op.getLsbD 2 = true) (a b : Word) (s : State) :
    after (decode op a b) s = { s with
      ctr := if op.getLsbD 1 then s.ctr else weyl s.ctr
      responses := s.responses ++ [{
        w64 := op.getLsbD 0
        data := outputSelector (op.getLsbD 0)
          (trace (if op.getLsbD 1 then a else s.ctr) (if op.getLsbD 1 then b else s.key)) }] } := by
  obtain rfl | rfl | rfl | rfl := op_generate_cases hop <;> rfl

/-- `op[2]` clear: `op[0]` loads the counter and `op[1]` the key. -/
theorem after_decode_of_construct {op : OpField} (hop : op.getLsbD 2 = false) (a b : Word) (s : State) :
    after (decode op a b) s = { s with
      ctr := if op.getLsbD 0 then a else s.ctr
      key := if op.getLsbD 1 then b else s.key
      loaded := s.loaded || op.getLsbD 0 } := by
  obtain rfl | rfl | rfl | rfl := op_construct_cases hop <;> simp [decode, after, State.loadCtr, State.loadKey]

/-! ## The invariant of narrow responses (R64) -/

/-- A record without responses meets the invariant. -/
theorem responsesInv_of_nil {s : State} (hs : s.responses = []) : ResponsesInv s := by
  intro r hr
  rw [hs] at hr
  cases hr

/-- A command adds at most a response of its own width to the record. -/
theorem responsesInv_after {s : State} (hs : ResponsesInv s) (i : Instr) : ResponsesInv (after i s) := by
  intro r hr hw
  rw [after_responses, List.mem_append] at hr
  obtain hold | hnew := hr
  · exact hs r hold hw
  · exact hi32_data_of_mem_responsesOf hnew hw

theorem responsesInv_step {s t : State} (hs : ResponsesInv s) (ht : step s = .next t) : ResponsesInv t := by
  obtain ⟨-, e⟩ | ⟨p, rest, -, ⟨-, e⟩ | ⟨-, -, e⟩ | ⟨-, -, e⟩⟩ := step_cases s
  all_goals cases e.symm.trans ht
  case inl => exact hs
  case inr.inl => exact responsesInv_of_nil (State.applyReset_responses _)
  case inr.inr.inl => exact responsesInv_after (s := { s with host := rest }) hs _
  case inr.inr.inr => exact hs

end Sys2Proof.Laws
end

section
/-! SUPPORT. How the text of a listed line splits into words, and what the words of a line read as (R74, R75). -/

namespace Sys2Proof.Laws

open Sys2Proof.Machine

/-! ## Splitting a text into words -/

/-- `xs` ends the word before it, and the words `ws` follow that word. -/
def Ends (xs : List Char) (ws : List (List Char)) : Prop := ∀ w, w ≠ [] → splitWords w xs = w :: ws

theorem ends_nil : Ends [] [] := splitWords_end

theorem ends_comment (comment : List Char) : Ends (';' :: comment) [] := fun w => splitWords_comment w comment

theorem splitWords_word {w xs : List Char} {ws : List (List Char)} (hp : ∀ c ∈ w, plain c) (hw : w ≠ [])
    (hx : Ends xs ws) : splitWords [] (w ++ xs) = w :: ws := by
  rw [splitWords_plain w xs [] hp, List.nil_append, hx w hw]

/-- A space and then a word end the word before them. -/
theorem ends_space_word {w xs : List Char} {ws : List (List Char)} (hp : ∀ c ∈ w, plain c) (hw : w ≠ [])
    (hx : Ends xs ws) : Ends (' ' :: (w ++ xs)) (w :: ws) := fun v hv => by
  rw [splitWords_space v _ hv, splitWords_word hp hw hx]

/-- A comma ends the word before it and is a word of its own; a space and the next word follow. -/
theorem ends_comma_word {w xs : List Char} {ws : List (List Char)} (hp : ∀ c ∈ w, plain c) (hw : w ≠ [])
    (hx : Ends xs ws) : Ends (',' :: ' ' :: (w ++ xs)) ([','] :: w :: ws) := fun v hv => by
  have hspace : splitWords [] (' ' :: (w ++ xs)) = splitWords [] (w ++ xs) := rfl
  rw [splitWords_comma v _ hv, hspace, splitWords_word hp hw hx]

theorem plain_of_mem_writeHex (k v : Nat) : ∀ c ∈ writeHex k v, plain c := by
  obtain ⟨hzero, hx⟩ : plain '0' ∧ plain 'x' := by decide
  intro c hc
  rw [writeHex, List.mem_cons, List.mem_cons] at hc
  obtain rfl | rfl | hc := hc
  · exact hzero
  · exact hx
  · exact plain_of_mem_hexDigits k v c hc

theorem writeHex_ne_nil (k v : Nat) : writeHex k v ≠ [] := List.cons_ne_nil _ _

/-! ## The words of a line -/

/-- The first word of a line. -/
def mnemonic : Line → List Char
  | .command .nop => ['N', 'O', 'P']
  | .command (.ldctr _) => ['L', 'D', 'C', 'T', 'R']
  | .command (.ldkey _) => ['L', 'D', 'K', 'E', 'Y']
  | .command (.init _ _) => ['I', 'N', 'I', 'T']
  | .command .next32 => ['N', 'E', 'X', 'T', '3', '2']
  | .command .next64 => ['N', 'E', 'X', 'T', '6', '4']
  | .command (.rand32 _ _) => ['R', 'A', 'N', 'D', '3', '2']
  | .command (.rand64 _ _) => ['R', 'A', 'N', 'D', '6', '4']
  | .nextU32 _ _ => ['n', 'e', 'x', 't', '_', 'u', '3', '2']
  | .nextU64 _ _ => ['n', 'e', 'x', 't', '_', 'u', '6', '4']
  | .next32 => ['n', 'e', 'x', 't', '3', '2']
  | .next64 => ['n', 'e', 'x', 't', '6', '4']
  | .newCtr _ => ['N', 'E', 'W']
  | .newCtrKey _ _ => ['N', 'E', 'W', 'K']
  | .sampleCtr => ['?']
  | .sampleKey => ['?']

/-- The words of a line after its first. -/
def operandWords : Line → List (List Char)
  | .command .nop => []
  | .command (.ldctr a) => [writeWord a]
  | .command (.ldkey b) => [writeWord b]
  | .command (.init a b) => [writeWord a, [','], writeWord b]
  | .command .next32 => []
  | .command .next64 => []
  | .command (.rand32 a b) => [writeWord a, [','], writeWord b]
  | .command (.rand64 a b) => [writeWord a, [','], writeWord b]
  | .nextU32 c k => [writeWord c, [','], writeWord k]
  | .nextU64 c k => [writeWord c, [','], writeWord k]
  | .next32 => []
  | .next64 => []
  | .newCtr c => [writeWord c]
  | .newCtrKey c k => [writeWord c, [','], writeWord k]
  | .sampleCtr => [['c', 't', 'r', '_', 'q']]
  | .sampleKey => [['k', 'e', 'y', '_', 'q']]

theorem ends_writeWord (a : Word) {xs : List Char} {ws : List (List Char)} (hx : Ends xs ws) :
    Ends (' ' :: (writeWord a ++ xs)) (writeWord a :: ws) :=
  ends_space_word (plain_of_mem_writeHex 16 _) (writeHex_ne_nil 16 _) hx

theorem ends_writeOperands (a b : Word) {xs : List Char} {ws : List (List Char)} (hx : Ends xs ws) :
    Ends (' ' :: (writeOperands a b ++ xs)) (writeWord a :: [','] :: writeWord b :: ws) := by
  rw [writeOperands, List.append_assoc]
  exact ends_writeWord a (ends_comma_word (plain_of_mem_writeHex 16 _) (writeHex_ne_nil 16 _) hx)

theorem plain_mnemonic (l : Line) : ∀ c ∈ mnemonic l, plain c := by
  cases l with
  | command i => cases i <;> simp [mnemonic, plain]
  | nextU32 | nextU64 | next32 | next64 | newCtr | newCtrKey | sampleCtr | sampleKey => simp [mnemonic, plain]

theorem mnemonic_ne_nil (l : Line) : mnemonic l ≠ [] := by
  cases l with
  | command i => cases i <;> exact List.cons_ne_nil _ _
  | nextU32 | nextU64 | next32 | next64 | newCtr | newCtrKey | sampleCtr | sampleKey => exact List.cons_ne_nil _ _

/-- The text of a line is its first word and an end of it after which the other words stand. -/
theorem writeLine_append (l : Line) {xs : List Char} {ws : List (List Char)} (hx : Ends xs ws) :
    ∃ tail, writeLine l ++ xs = mnemonic l ++ tail ∧ Ends tail (operandWords l ++ ws) := by
  cases l with
  | command i =>
    cases i with
    | nop | next32 | next64 => exact ⟨_, rfl, hx⟩
    | ldctr a | ldkey a => exact ⟨_, rfl, ends_writeWord a hx⟩
    | init a b | rand32 a b | rand64 a b => exact ⟨_, rfl, ends_writeOperands a b hx⟩
  | next32 | next64 => exact ⟨_, rfl, hx⟩
  | newCtr a => exact ⟨_, rfl, ends_writeWord a hx⟩
  | nextU32 a b | nextU64 a b | newCtrKey a b => exact ⟨_, rfl, ends_writeOperands a b hx⟩
  | sampleCtr => exact ⟨_, rfl, ends_space_word (w := ['c', 't', 'r', '_', 'q']) (by simp [plain]) (by simp) hx⟩
  | sampleKey => exact ⟨_, rfl, ends_space_word (w := ['k', 'e', 'y', '_', 'q']) (by simp [plain]) (by simp) hx⟩

theorem splitWords_writeLine (l : Line) {xs : List Char} {ws : List (List Char)} (hx : Ends xs ws) :
    splitWords [] (writeLine l ++ xs) = mnemonic l :: (operandWords l ++ ws) := by
  obtain ⟨tail, htext, htail⟩ := writeLine_append l hx
  rw [htext, splitWords_word (plain_mnemonic l) (mnemonic_ne_nil l) htail]

/-! ## Reading the words of a line -/

@[simp] theorem readOne_writeWord (make : Word → Line) (a : Word) (ws : List (List Char)) :
    readOne make (writeWord a :: ws) = some (make a, ws) := by
  rw [readOne, readWord_writeWord]

@[simp] theorem readTwo_writeWord (make : Word → Word → Line) (a b : Word) (ws : List (List Char)) :
    readTwo make (writeWord a :: [','] :: writeWord b :: ws) = some (make a b, ws) := by
  rw [readTwo, if_pos rfl, readWord_writeWord, readWord_writeWord]

/-- The words of a line read as the line, whatever follows them. -/
theorem readLine_words (l : Line) (ws : List (List Char)) :
    readLine (mnemonic l :: (operandWords l ++ ws)) = some (l, ws) := by
  cases l with
  | command i => cases i <;> simp [readLine, mnemonic, operandWords]
  | nextU32 | nextU64 | next32 | next64 | newCtr | newCtrKey => simp [readLine, mnemonic, operandWords]
  | sampleCtr | sampleKey => simp [readLine, mnemonic, operandWords, readSample]

/-! ## The shown response -/

/-- The digits of a shown response: 8 for a narrow one, 16 for a wide one (R12, R74). -/
def responseWord (r : Response) : List Char := if r.w64 then writeWord r.data else writeHex 8 r.data.toNat

/-- The words of what is shown after a line. -/
def shownWords : Option Response → List (List Char)
  | none => []
  | some r => [['-', '>'], responseWord r]

theorem responseWord_eq_writeHex (r : Response) : ∃ k v, responseWord r = writeHex k v := by
  rw [responseWord]
  split
  · exact ⟨16, _, rfl⟩
  · exact ⟨8, _, rfl⟩

theorem ends_writeResponse (r : Response) {xs : List Char} {ws : List (List Char)} (hx : Ends xs ws) :
    Ends (writeResponse r ++ xs) (['-', '>'] :: responseWord r :: ws) := by
  have hdigits : Ends (' ' :: (responseWord r ++ xs)) (responseWord r :: ws) := by
    obtain ⟨k, v, h⟩ := responseWord_eq_writeHex r
    rw [h]
    exact ends_space_word (plain_of_mem_writeHex k v) (writeHex_ne_nil k v) hx
  exact ends_space_word (w := ['-', '>']) (by simp [plain]) (by simp) hdigits

/-- A value without a high half is below 2^32, so its 8 digits are all of it. -/
theorem toNat_lt_of_hi32_eq_zero {v : Word} (h : hi32 v = 0) : v.toNat < 2 ^ 32 := by
  have hdiv : 0 = v.toNat / 2 ^ 32 := (congrArg BitVec.toNat h).symm.trans (hi32_toNat v)
  omega

/-- The number of digits tells the widths apart: 16 digits are no 8-digit literal. -/
theorem readShown_responseWord {r : Response} (hr : r.wellFormed = true) :
    readShown [['-', '>'], responseWord r] = some (some r) := by
  obtain ⟨w64, data⟩ := r
  cases w64 with
  | true =>
    have hnarrow : readHex 8 (writeWord data) = none := readHex_writeHex_of_ne 8 16 _ (by decide)
    simp [readShown, responseWord, hnarrow]
  | false =>
    have hhigh : hi32 data = 0 := by simpa [Response.wellFormed] using hr
    have hnarrow : readHex 8 (writeHex 8 data.toNat) = some data.toNat :=
      readHex_writeHex 8 _ (toNat_lt_of_hi32_eq_zero hhigh)
    simp [readShown, responseWord, hnarrow]

/-! ## A whole listed line -/

/-- The words of a listed line. -/
def listedWords (l : ListedLine) : List (List Char) :=
  mnemonic l.line :: (operandWords l.line ++ shownWords l.shown)

/-- A listed line's text splits into its words, before the end of the text and before a comment. -/
theorem splitWords_writeListed (l : ListedLine) {xs : List Char} (hx : Ends xs []) :
    splitWords [] (writeListed l ++ xs) = listedWords l := by
  obtain ⟨line, shown⟩ := l
  rw [writeListed, List.append_assoc]
  cases shown with
  | none => exact splitWords_writeLine line hx
  | some r => exact splitWords_writeLine line (ends_writeResponse r hx)

theorem readListedWords_listedWords {l : ListedLine} (hl : l.wellFormed = true) :
    readListedWords (listedWords l) = some l := by
  have hshown : readShown (shownWords l.shown) = some l.shown := by
    obtain ⟨line, shown⟩ := l
    cases shown with
    | none => rfl
    | some r => exact readShown_responseWord hl
  rw [readListedWords, listedWords, readLine_words]
  simp only [hshown]

theorem readListed_writeListed_append {l : ListedLine} (hl : l.wellFormed = true) {xs : List Char} (hx : Ends xs []) :
    readListed (writeListed l ++ xs) = some l := by
  rw [readListed, splitWords_writeListed l hx, readListedWords_listedWords hl]

end Sys2Proof.Laws
end

section
/-! SUPPORT. Laws of the datapath and of the counter sequence: the rotation as an involution, the degenerate key schedules, the
rows of the sub-block schedule, and the applications of `weyl` as counter values. -/

namespace Sys2Proof.Laws

open Sys2Proof.Machine

/-! ## The rotation (R95) -/

@[simp] theorem rot32_rot32 (v : Word) : rot32 (rot32 v) = v := eq_of_halves (by simp) (by simp)

theorem rot32_involutive : Function.Involutive rot32 := rot32_rot32

theorem rot32_eq_self_iff (v : Word) : rot32 v = v ↔ hi32 v = lo32 v := by
  refine ⟨fun h => ?_, fun h => eq_of_halves ?_ ?_⟩
  · rw [← lo32_rot32, h]
  · rw [hi32_rot32, h]
  · rw [lo32_rot32, h]

/-! ## The wide output's low half (R109) -/

theorem lo32_squares64 (c k : Word) : lo32 (squares64 c k) = lo32 (trace c k).s4 ^^^ hi32 (trace c k).s5 := by
  rw [squares64, out64, lo32_xor64, lo32_zext64]

/-! ## The key schedule (R102) and its degenerate inputs (R112) -/

/-- One more counter adds one more key to the product. -/
theorem mul64_add64_one (c k : Word) : mul64 (add64 c 1) k = add64 (mul64 c k) k := by
  rw [mul64, mul64, add64, add64, add_mul]
  exact congrArg (c * k + ·) (BitVec.one_mul k)

@[simp] theorem mul64_zero_left (k : Word) : mul64 0 k = 0 := BitVec.zero_mul

@[simp] theorem add64_zero_left (v : Word) : add64 0 v = v := BitVec.zero_add v

@[simp] theorem add64_zero_right (v : Word) : add64 v 0 = v := BitVec.add_zero v

theorem mul64_one_right (c : Word) : mul64 c 1 = c := BitVec.mul_one c

/-- The round sum of 0 is the addend. -/
@[simp] theorem rsum_zero_left (a : Word) : rsum 0 a = a := by rw [rsum, sq64, mul64_zero_left, add64_zero_left]

@[simp] theorem rot32_zero : rot32 0 = 0 := rfl

theorem trace_zero_ctr_y (k : Word) : (trace 0 k).y = 0 := mul64_zero_left k

theorem trace_zero_ctr_z (k : Word) : (trace 0 k).z = k :=
  calc (trace 0 k).z
      = add64 (trace 0 k).y k := rfl
    _ = k := by rw [trace_zero_ctr_y, add64_zero_left]

theorem trace_zero_ctr_s1 (k : Word) : (trace 0 k).s1 = 0 :=
  calc (trace 0 k).s1
      = rsum (trace 0 k).y (trace 0 k).y := rfl
    _ = 0 := by rw [trace_zero_ctr_y, rsum_zero_left]

theorem trace_zero_ctr_x1 (k : Word) : (trace 0 k).x1 = 0 :=
  calc (trace 0 k).x1
      = rot32 (trace 0 k).s1 := rfl
    _ = 0 := by rw [trace_zero_ctr_s1, rot32_zero]

theorem trace_zero_ctr_s2 (k : Word) : (trace 0 k).s2 = k :=
  calc (trace 0 k).s2
      = rsum (trace 0 k).x1 (trace 0 k).z := rfl
    _ = k := by rw [trace_zero_ctr_x1, rsum_zero_left, trace_zero_ctr_z]

theorem trace_one_key_y (c : Word) : (trace c 1).y = c := mul64_one_right c

theorem trace_one_key_z (c : Word) : (trace c 1).z = add64 c 1 :=
  calc (trace c 1).z
      = add64 (trace c 1).y 1 := rfl
    _ = add64 c 1 := by rw [trace_one_key_y]

/-! ## The sub-block schedule (R113) -/

/-- The first row keeps the product of counter and key: it adds 0. -/
theorem runRow_first (c k : Word) (l : Latches) :
    runRow c k l { msel := .counterKey, asel := .none, psel := .passToYX } =
      { l with y := (trace c k).y, x := (trace c k).x0 } := by
  have hsum : add64 (mul64 c k) 0 = mul64 c k := add64_zero_right _
  rw [runRow, mulStage, addStage, hsum]
  rfl

/-- The rows both widths share leave the key schedule's terms and the value after round 3 in the latches. -/
theorem runRows_scheduleCommon (c k : Word) (l : Latches) :
    runRows c k scheduleCommon l =
      { l with y := (trace c k).y, z := (trace c k).z, x := (trace c k).x3 } := by
  rw [runRows, scheduleCommon, List.foldl_cons, runRow_first]
  rfl

theorem runRows_append (c k : Word) (rows rows' : List ScheduleRow) (l : Latches) :
    runRows c k (rows ++ rows') l = runRows c k rows' (runRows c k rows l) := List.foldl_append

theorem runRows_schedule_out (w64 : Bool) (c k : Word) (l : Latches) :
    (runRows c k (schedule w64) l).out = outputSelector w64 (trace c k) := by
  rw [schedule, runRows_append, runRows_scheduleCommon]
  cases w64 with
  | false => rfl
  | true => rfl

/-! ## The counter sequence (R111) -/

theorem iterate_weyl (n : Nat) (v : Word) : weyl^[n] v = counterAt v n := by
  induction n with
  | zero => exact (counterAt_zero v).symm
  | succ n ih => rw [Function.iterate_succ_apply', ih, counterAt_succ]

theorem weyl_bijective : Function.Bijective weyl := (Equiv.addRight weylInc).bijective

theorem counterAt_eq_self_iff (v : Word) (n : Nat) : counterAt v n = v ↔ 2 ^ 64 ∣ n := by
  rw [counterAt, ← ofNat_mul_weylInc_eq_zero_iff]
  exact add_eq_left

/-- The number of draws counts modulo 2^64. -/
theorem counterAt_mod (v : Word) (n : Nat) : counterAt v (n % 2 ^ 64) = counterAt v n := by
  have hn : BitVec.ofNat 64 (n % 2 ^ 64) = BitVec.ofNat 64 n := BitVec.eq_of_toNat_eq (Nat.mod_mod n (2 ^ 64))
  rw [counterAt, counterAt, hn]

theorem exists_lt_counterAt_eq (v u : Word) : ∃ n, n < 2 ^ 64 ∧ counterAt v n = u := by
  obtain ⟨n, hn⟩ := exists_counterAt_eq v u
  exact ⟨n % 2 ^ 64, Nat.mod_lt n (by decide), (counterAt_mod v n).trans hn⟩

end Sys2Proof.Laws
end

section
/-! SUPPORT. What does not depend on the counter before a load (R174), runs of idle samples (R63), and the step of one block of a
system (R24, R162). -/

namespace Sys2Proof.Laws

open Sys2Proof.Machine

/-! ## What the counter held before a load does not show (R174) -/

theorem responsesOf_congr_ctr {i : Instr} (hd : i.isDraw = false) (c c' k : Word) :
    responsesOf i c k = responsesOf i c' k := by
  cases i with
  | nop | ldctr | ldkey | init | rand32 | rand64 => rfl
  | next32 | next64 => cases hd

theorem ctrAfter_congr_of_load {i : Instr} (hl : i.loadsCtr = true) (c c' : Word) : ctrAfter i c = ctrAfter i c' := by
  cases i with
  | ldctr | init => rfl
  | nop | ldkey | next32 | next64 | rand32 | rand64 => cases hl

theorem ctrAfterAll_congr_of_load {l : List Instr} (hl : l.any Instr.loadsCtr = true) (c c' : Word) :
    ctrAfterAll l c = ctrAfterAll l c' := by
  induction l generalizing c c' with
  | nil => cases hl
  | cons i is ih =>
    rw [List.any_cons, Bool.or_eq_true] at hl
    obtain hi | his := hl
    · rw [ctrAfterAll, ctrAfter_congr_of_load hi c c', ctrAfterAll]
    · exact ih his _ _

/-- The counters are compared only where they are not yet loaded: `loaded` says whether a load has made them equal. -/
theorem responsesOfAll_congr_ctr {l : List Instr} {loaded : Bool} (hl : loadsBeforeDraws loaded l = true) {c c' : Word}
    (hc : loaded = true → c = c') (k : Word) : responsesOfAll l c k = responsesOfAll l c' k := by
  induction l generalizing loaded c c' k with
  | nil => rfl
  | cons i is ih =>
    obtain ⟨hi, his⟩ : (loaded = true ∨ i.isDraw = false) ∧ loadsBeforeDraws (loaded || i.loadsCtr) is = true := by
      simpa [loadsBeforeDraws] using hl
    have hresponse : responsesOf i c k = responsesOf i c' k := by
      obtain hloaded | hd := hi
      · rw [hc hloaded]
      · exact responsesOf_congr_ctr hd c c' k
    have hctr (h : (loaded || i.loadsCtr) = true) : ctrAfter i c = ctrAfter i c' := by
      obtain hloaded | hload := Bool.or_eq_true_iff.1 h
      · rw [hc hloaded]
      · exact ctrAfter_congr_of_load hload c c'
    rw [responsesOfAll, responsesOfAll, hresponse, ih his hctr]

/-! ## Idle samples (R63) -/

theorem accepts_iff (p : HostPorts) (s : State) : accepts p s = true ↔ p.cmdValid = true ∧ s.cmdReady = true := by
  rw [accepts, Bool.and_eq_true]

/-- Samples without reset and without a command are taken, and nothing else happens. -/
theorem run_idle (ps rest : List HostPorts) (s : State) (hps : ∀ p ∈ ps, p.rst = false ∧ p.cmdValid = false) :
    Sys2Proof.core.run ps.length { s with host := ps ++ rest } = .next { s with host := rest } := by
  induction ps with
  | nil => rfl
  | cons p ps ih =>
    obtain ⟨hrst, hvalid⟩ := hps p List.mem_cons_self
    have hstep : step { s with host := p :: (ps ++ rest) } = .next { s with host := ps ++ rest } :=
      (step_of_cons _ p _ rfl).trans (receive_of_idle hrst hvalid _)
    calc Sys2Proof.core.run (ps.length + 1) { s with host := p :: (ps ++ rest) }
        = Sys2Proof.core.run ps.length { s with host := ps ++ rest } := run_succ_of_next _ _ _ hstep
      _ = .next { s with host := rest } := ih fun q hq => hps q (List.mem_cons_of_mem p hq)

/-! ## One block of a system (R24, R162) -/

/-- The state a step leaves. -/
def stepState (s : State) : State :=
  match step s with
  | .next t => t
  | .fault _ => s
  | .refused _ => s

theorem stepState_of_step {s t : State} (h : step s = .next t) : stepState s = t := by rw [stepState, h]

theorem step_eq_stepState (s : State) : step s = .next (stepState s) := by
  obtain ⟨t, ht⟩ := step_next s
  rw [stepState_of_step ht, ht]

/-- The system after a step of block `n`: a step at place `n` of the list, and no change where there is no such place. -/
def afterStep (n : Nat) (y : System) : System := { blocks := y.blocks.modify n stepState }

theorem stepBlock_eq_afterStep (n : Nat) (y : System) : y.stepBlock n = .next (afterStep n y) := by
  cases hs : y.blocks[n]? with
  | none =>
    rw [stepBlock_of_none y n hs, afterStep, List.modify_eq_self (List.getElem?_eq_none_iff.1 hs)]
  | some s =>
    rw [stepBlock_of_some y n s _ hs (step_eq_stepState s), afterStep, List.modify_eq_set_getElem?, hs]
    rfl

theorem afterStep_getElem?_ne {m n : Nat} (h : m ≠ n) (y : System) :
    (afterStep n y).blocks[m]? = y.blocks[m]? := List.getElem?_modify_ne stepState y.blocks h.symm

theorem afterStep_getElem?_self {n : Nat} {y : System} {s : State} (hs : y.blocks[n]? = some s) :
    (afterStep n y).blocks[n]? = some (stepState s) := by
  rw [afterStep, List.getElem?_modify_eq, hs, Option.map_eq_map, Option.map_some]

theorem afterStep_comm {m n : Nat} (h : m ≠ n) (y : System) :
    afterStep n (afterStep m y) = afterStep m (afterStep n y) :=
  congrArg System.mk (List.modify_modify_ne stepState stepState y.blocks h)

theorem stepState_block (s : State) : (stepState s).block = s.block := step_block s _ (step_eq_stepState s)

theorem afterStep_numbered {y : System} (hy : y.Numbered) (n : Nat) : (afterStep n y).Numbered := by
  intro m t ht
  rw [afterStep, List.getElem?_modify, Option.map_eq_map, Option.map_eq_some_iff] at ht
  obtain ⟨s, hs, rfl⟩ := ht
  split
  · exact (stepState_block s).trans (hy m s hs)
  · exact hy m s hs

theorem powerUp_getElem? (k n : Nat) :
    (System.powerUp k).blocks[n]? = if n < k then some (State.powerUp n) else none := by
  rw [System.powerUp, List.getElem?_map]
  split
  case isTrue h => rw [List.getElem?_range h, Option.map_some]
  case isFalse h => rw [List.getElem?_eq_none (by simpa using h), Option.map_none]

theorem powerUp_numbered (k : Nat) : (System.powerUp k).Numbered := by
  intro n s hs
  rw [powerUp_getElem?] at hs
  split at hs
  · cases hs; rfl
  · cases hs

end Sys2Proof.Laws
end

section
/-! PROOF. The statements across families: encoding and listings, the datapath, draws, the step, reset and systems of blocks. -/

namespace Sys2Proof.Proofs

open Sys2Proof.Machine Sys2Proof.Laws

/-- Settles O6: the decoder reads back the three packed fields, and a filler stands only where the command ignores it. -/
theorem decodeOfEncodeIsTheCommand : Obligations.DecodeOfEncodeIsTheCommand :=
  decodeWord_encodeWith

/-- Settles O58, by the cases of a step: a reset empties the record, a command adds a response of its own width. -/
theorem stepKeepsNarrowResponsesNarrow : Obligations.StepKeepsNarrowResponsesNarrow :=
  fun _ _ hs ht => responsesInv_step hs ht

/-- Settles O59: the record is empty at reset. -/
theorem resetHasNarrowResponsesNarrow : Obligations.ResetHasNarrowResponsesNarrow :=
  responsesInv_of_nil (State.powerUp_responses 0)

/-- Settles O4, by `op[2]`: four generate commands and four construct commands. -/
theorem opBitsGiveTheEffect : Obligations.OpBitsGiveTheEffect := by
  intro op a b s
  rw [exec_eq_after]
  cases hop : op.getLsbD 2 with
  | true => rw [if_pos rfl, after_decode_of_generate hop]
  | false => rw [if_neg Bool.false_ne_true, after_decode_of_construct hop]

/-- Settles O7: a word is its fields, and each field is the command's or the filler taken from the word. -/
theorem encodeOfDecodeIsTheWord : Obligations.EncodeOfDecodeIsTheWord :=
  encodeWith_fields_decodeWord

/-- Settles O1: the ten words are evaluated. -/
theorem commandWordsDecode : Obligations.CommandWordsDecode := by
  unfold Obligations.CommandWordsDecode
  decide

/-- Settles O8: the written text splits into the words of the line (`splitWords_writeListed`), which read as the line. -/
theorem listingTextReadsBack : Obligations.ListingTextReadsBack := by
  refine fun l hl => ⟨?_, fun comment => readListed_writeListed_append hl (ends_comment comment)⟩
  rw [← List.append_nil (writeListed l)]
  exact readListed_writeListed_append hl ends_nil

/-- Settles O13: swapping the halves twice restores them; the patterns are evaluated. -/
theorem rotateBy32Laws : Obligations.RotateBy32Laws :=
  ⟨rot32_rot32, rot32_involutive.bijective, rot32_eq_self_iff, by decide⟩

/-- Settles O22: the widened term of the wide output has no high half. -/
theorem narrowOutputIsTheHighHalfOfTheWide : Obligations.NarrowOutputIsTheHighHalfOfTheWide :=
  fun c k => ⟨hi32_squares64_eq_squares32 c k, lo32_squares64 c k⟩

/-- Settles O24: after the shared rows the latches hold the terms of `trace` that the last rows use. -/
theorem subBlockScheduleComputesTheOutput : Obligations.SubBlockScheduleComputesTheOutput :=
  ⟨runRows_schedule_out, by decide, by decide⟩

/-- Settles O26: an odd increment is invertible modulo 2^64, so `n` advances come back exactly when 2^64 divides `n` and reach
every value. -/
theorem weylSequenceHasFullPeriod : Obligations.WeylSequenceHasFullPeriod := by
  refine ⟨iterate_weyl, weyl_bijective, fun n v => ?period, fun v u => ?reaches⟩
  case period => rw [iterate_weyl, counterAt_eq_self_iff]
  case reaches => simpa only [iterate_weyl] using exists_lt_counterAt_eq v u

/-- Settles O17: the terms are fields of `trace`, the equivalent form is `mul64_add64_one`, and the example is evaluated. -/
theorem keyScheduleTerms : Obligations.KeyScheduleTerms :=
  ⟨fun c k => ⟨rfl, rfl, rfl, (mul64_add64_one c k).symm⟩, by decide⟩

/-- Settles O23: with key 0 or counter 0 the sums collapse, with key 1 the product is the counter; the listed values are
evaluated. -/
theorem degenerateInputs : Obligations.DegenerateInputs :=
  ⟨fun c => ⟨squares32_zero_key c, squares64_zero_key c⟩,
    fun k => ⟨trace_zero_ctr_y k, trace_zero_ctr_z k, trace_zero_ctr_s1 k, trace_zero_ctr_x1 k, trace_zero_ctr_s2 k⟩,
    fun c => ⟨trace_one_key_y c, trace_one_key_z c⟩, by decide⟩

/-- Settles O30: both orders of the two loads write the same fields. -/
theorem initLoadsBoth : Obligations.InitLoadsBoth := fun a b s =>
  ⟨rfl, exec_eq_after (.init a b) s, execAll_eq_afterAll [.ldctr a, .ldkey b] s,
    execAll_eq_afterAll [.ldkey b, .ldctr a] s⟩

/-- Settles O35: the draw is `after_of_draw`, its response under key 0 `squares32_zero_key`; the examples are evaluated. -/
theorem next32DrawsAndAdvances : Obligations.Next32DrawsAndAdvances := by
  refine ⟨fun a b s => ⟨rfl, exec_eq_after .next32 s, ⟨_, _, exec_eq_after .next32 s, exec_eq_after .next64 s, rfl⟩,
    fun hkey => ?zeroKey⟩, fun v => rfl, by decide⟩
  have hdraw : drawResponse .next32 s.ctr s.key = { w64 := false, data := 0 } := by
    rw [drawResponse, if_neg (by decide), narrowResponse, hkey, squares32_zero_key]
    rfl
  rw [exec_eq_after, after_of_draw rfl, hdraw]

/-- Settles O36: the draw is `after_of_draw`, its response under key 0 `squares64_zero_key`; the example is evaluated. -/
theorem next64DrawsAndAdvances : Obligations.Next64DrawsAndAdvances := by
  refine ⟨fun a b s => ⟨rfl, exec_eq_after .next64 s, hi32_squares64_eq_squares32 s.ctr s.key, fun hkey => ?zeroKey⟩,
    fun v => rfl, by decide⟩
  have hdraw : drawResponse .next64 s.ctr s.key = { w64 := true, data := 0 } := by
    rw [drawResponse, if_pos rfl, wideResponse, hkey, squares64_zero_key]
  rw [exec_eq_after, after_of_draw rfl, hdraw]

/-- Settles O37: one draw adds to the pure command's state the advance, and the stream is `afterAll_of_draws` from the state
`INIT` leaves. -/
theorem drawsFollowThePureFunctions : Obligations.DrawsFollowThePureFunctions := by
  refine ⟨fun s t ht => ?next32, fun s t ht => ?next64, fun c0 k l s hl => ?stream⟩
  case next32 =>
    cases (exec_eq_after _ s).symm.trans ht
    exact exec_eq_after .next32 s
  case next64 =>
    cases (exec_eq_after _ s).symm.trans ht
    exact exec_eq_after .next64 s
  case stream =>
    rw [execAll_eq_afterAll, afterAll, afterAll_of_draws hl]
    rfl

/-- Settles O39: the same draws from the same counter and key, the record apart (`afterAll_of_draws`). -/
theorem replayFromASnapshot : Obligations.ReplayFromASnapshot := fun l s hl =>
  ⟨_, _, _, (execAll_eq_afterAll l s).trans (congrArg _ (afterAll_of_draws hl s)),
    (execAll_eq_afterAll _ _).trans (congrArg _ (afterAll_of_draws hl _)), rfl, List.length_mapIdx, rfl, rfl, rfl⟩

/-- Settles O56: a draw's fields after it do not depend on the loaded mark. -/
theorem unloadedDrawRunsFromWhateverIsHeld : Obligations.UnloadedDrawRunsFromWhateverIsHeld := by
  refine fun s hs => ⟨⟨_, exec_eq_after .next32 s, ?_, after_ctr _ s, after_responses _ s⟩,
    ⟨_, exec_eq_after .next64 s, ?_, after_ctr _ s, after_responses _ s⟩⟩
  · rw [after_loaded, hs]; rfl
  · rw [after_loaded, hs]; rfl

/-- Settles O57: before the first load no command reads the counter, and the load makes the two counters equal. -/
theorem loadingFirstHidesThePowerUpCounter : Obligations.LoadingFirstHidesThePowerUpCounter := by
  refine fun l s u hl hkey => ⟨_, _, responsesOfAll l s.ctr s.key, execAll_eq_afterAll l s, execAll_eq_afterAll l u,
    afterAll_responses l s, ?responses, ?key, fun hload => ?ctr⟩
  case responses => rw [afterAll_responses, ← hkey, responsesOfAll_congr_ctr hl (by simp) s.key]
  case key => rw [afterAll_key, afterAll_key, hkey]
  case ctr => rw [afterAll_ctr, afterAll_ctr, ctrAfterAll_congr_of_load hload]

/-- Settles O49, by `run_idle` (induction on the idle samples) and `run_of_host_nil`. -/
theorem idleHostChangesNothing : Obligations.IdleHostChangesNothing :=
  ⟨fun p s => ⟨rfl, accepts_iff p s⟩, fun ps rest s hps => run_idle ps rest s hps, fun n _ hs => run_of_host_nil n hs⟩

/-- Settles O51: a sample with a command and without reset is received as that command. -/
theorem stepRunsTheDecodedCommand : Obligations.StepRunsTheDecodedCommand := by
  intro s p rest i hs hrst hvalid hi
  rw [step_of_cons s p rest hs, receive_of_command hrst hvalid, hi, exec_eq_after]

/-- Settles O54: a step that takes a sample with reset does not look at the sample's command (`step_of_rst`). -/
theorem resetWinsOverACommand : Obligations.ResetWinsOverACommand := fun _ _ _ _ _ =>
  ⟨_, step_of_rst rfl rfl, step_of_rst rfl rfl, State.applyReset_responses _⟩

/-- Settles O60: a step of block `n` is `afterStep n`, which changes place `n` of the list alone, by that block's own step. -/
theorem blocksAreIndependent : Obligations.BlocksAreIndependent := by
  refine ⟨fun y n => ?others, fun y n s t hs ht => ?own, fun y n hn => stepBlock_of_none y n hn,
    fun k n => ⟨powerUp_numbered k, powerUp_getElem? k n⟩, fun y z n hy hz => ?numbered,
    fun y a b c d m n hmn ha hb hc hd => ?commute⟩
  case others =>
    exact ⟨_, stepBlock_eq_afterStep n y, List.length_modify _ _ _, fun m hm => afterStep_getElem?_ne hm y⟩
  case own =>
    refine ⟨_, stepBlock_eq_afterStep n y, ?_⟩
    rw [afterStep_getElem?_self hs, stepState_of_step ht]
  case numbered =>
    cases (stepBlock_eq_afterStep n y).symm.trans hz
    exact afterStep_numbered hy n
  case commute =>
    cases (stepBlock_eq_afterStep m y).symm.trans ha
    cases (stepBlock_eq_afterStep n y).symm.trans hc
    cases (stepBlock_eq_afterStep n _).symm.trans hb
    cases (stepBlock_eq_afterStep m _).symm.trans hd
    exact afterStep_comm hmn y

end Sys2Proof.Proofs
end
